-- ==== Sys2Proof/Word.lean ====
section
/-! DEFINITION. The plain word types of the block and the named values its fields and registers take
(spec/10_state.md, spec/30_encoding.md). -/

namespace Sys2Proof

/-- A byte of the stream or of the frame buffer (spec/20_memory.md R70). -/
abbrev Byte := BitVec 8

/-- The header word (spec/10_state.md R32) and every other 32-bit quantity. -/
abbrev Word := BitVec 32

/-- A subband sample (spec/00_scope.md R6 `Sample`, spec/45_samples_sink.md R313): the number itself, so that a sample of
every number format is one, whatever its width (log 29). The numbers are the rationals; an IEEE 754 format has beside
them a negative zero, the two infinities and NaN. -/
inductive Sample where
  | number (q : Rat)
  | negativeZero
  | infinity (negative : Bool)
  | notANumber
  deriving DecidableEq, Repr, Inhabited

/-- `VERSION` (spec/10_state.md R33). -/
inductive Version where
  | mpeg1
  | mpeg2Lsf
  | mpeg25Lsf
  deriving DecidableEq, Repr

/-- `LAYER`, 1 to 3; 0 is never stored (spec/10_state.md R33). -/
inductive Layer where
  | one
  | two
  | three
  deriving DecidableEq, Repr

/-- `MODE` (spec/30_encoding.md R115). -/
inductive Mode where
  | stereo
  | jointStereo
  | dualChannel
  | singleChannel
  deriving DecidableEq, Repr

/-- The shape of a subband entry (spec/10_state.md R38, spec/90_conflicts.md C2). -/
inductive Variant where
  | mono
  | stereo
  | isx
  deriving DecidableEq, Repr

/-- The channel of a subband's field that is read next (spec/10_state.md R41). -/
inductive Chan where
  | ch1
  | ch2
  deriving DecidableEq, Repr

/-- The two sinks (spec/20_memory.md R84). -/
inductive SinkId where
  | sk1
  | sk2
  deriving DecidableEq, Repr

/-- `SYNC_MODE` (spec/10_state.md R24). -/
inductive SyncMode where
  | initialSync
  | strictSync
  deriving DecidableEq, Repr

/-- `CHSEL` (spec/10_state.md R28). -/
inductive ChSel where
  | both
  | left
  | right
  deriving DecidableEq, Repr

/-- `TOP` (spec/10_state.md R29). -/
inductive Top where
  | idle
  | busy
  | halted
  deriving DecidableEq, Repr

/-- `PHASE`, in the order of spec/10_state.md R30. -/
inductive Phase where
  | sync
  | header
  | body
  | validate
  | crcw
  | vbr
  | construct
  | alloc
  | scf
  | gate
  | samples
  | done
  deriving DecidableEq, Repr

/-- Where inside `P_VBR` the probe stands: before it, at the "Xing" tag, at the "VBRI" tag, after it
(the order of spec/42_vbr.md R241; the field is the model's own, DESIGN CHOICE, log 7). -/
inductive Probe where
  | start
  | xing
  | vbri
  | done
  deriving DecidableEq, Repr

end Sys2Proof
end

