-- ==== Sys2Proof/Config.lean ====
section
/-! DEFINITION. What an implementation fixes: the parameters of spec/00_scope.md R6, each a configuration field, and
the free values (log 11, log 29). R6's own values of the parameters are in Sys2Proof/Machine/Rom.lean. -/

namespace Sys2Proof

/-- `STRICT_VALIDATE` (spec/92_eei_decisions.md D6): which check `VALIDATE` makes under `STRICT_SYNC`. -/
inductive StrictValidate where
  | lookahead
  | trivial
  deriving DecidableEq, Repr

/-- `XING_FLAGS` (spec/42_vbr.md R246): which flag bit is the TOC's and which the scale's. -/
inductive XingFlags where
  | standard
  | d0Literal
  deriving DecidableEq, Repr

/-- How `rnd` narrows a real between two neighbouring samples (spec/00_scope.md R6 `rnd`; log 29). -/
inductive Rounding where
  | nearestEven
  | nearestAway
  | towardZero
  | towardPositive
  | towardNegative
  deriving DecidableEq, Repr

/-- An IEEE 754 binary format of any width: a sign bit, an exponent field and a fraction field, and its rounding. -/
structure BinaryFormat where
  expBits : Nat
  fracBits : Nat
  rounding : Rounding
  deriving DecidableEq, Repr

/-- `Sample` and `rnd` (spec/00_scope.md R6, spec/45_samples_sink.md R313; log 29). -/
inductive NumberFormat where
  /-- an IEEE 754 binary format; R6's value is binary32, to nearest even (spec/92_eei_decisions.md D12) -/
  | binary (format : BinaryFormat)
  /-- exact rationals, `rnd` the identity (spec/45_samples_sink.md R313, spec/92_eei_decisions.md D12) -/
  | exact
  /-- any other format, by a number of its own: fixed-point, decimal and so on; `rnd` is `Config.roundOther` -/
  | other (n : Nat)
  deriving DecidableEq, Repr

/-- The checksum's parameters (spec/43_crc.md R261): generator, initial value, feeding order, reflection of the result,
and what the result is combined with at the end. -/
structure CrcParams where
  /-- `CRC_POLY` -/
  poly : BitVec 16
  /-- `CRC_INIT` -/
  init : BitVec 16
  /-- is a bit group fed least significant bit first -/
  reflectIn : Bool
  /-- is the accumulator reflected before the comparison -/
  reflectOut : Bool
  /-- the final exclusive or -/
  xorOut : BitVec 16
  deriving DecidableEq, Repr

/-- One entry for each `VERSION`. -/
structure PerVersion (α : Type) where
  mpeg1 : α
  mpeg2Lsf : α
  mpeg25Lsf : α
  deriving DecidableEq, Repr

/-- One entry for each `LAYER`. -/
structure PerLayer (α : Type) where
  one : α
  two : α
  three : α
  deriving DecidableEq, Repr

/-- The headers whose bits under `mask` are `bits`, and the `SUBBAND_COUNT` they have. -/
structure SubbandRow where
  mask : Word
  bits : Word
  count : Nat
  deriving DecidableEq, Repr

/-- `SUBBANDS_L23(h)` (spec/00_scope.md R6, spec/41_header.md R203), a function of the header word. -/
inductive SubbandFunction where
  /-- the function R203 prints -/
  | rule203
  /-- any function: the count of the first row a header is of, and that of the headers of none -/
  | table (rows : List SubbandRow) (otherwise : Nat)
  deriving DecidableEq, Repr

/-- The parameters of spec/00_scope.md R6, in its order. They are fixed for a machine; the state carries them so that
every value of each is modelled (log 15). -/
structure Params where
  /-- `BITRATE[v][l][i]` in bits per second -/
  bitrate : PerVersion (PerLayer (Vector Nat 16))
  /-- `FREQ[v][r]` in Hz -/
  freq : PerVersion (Vector Nat 3)
  /-- the stored values `rnd(SCALE[i])`: `SCALE[i]` itself may be irrational (spec/20_memory.md R93) -/
  scale : Vector Sample 64
  /-- `FACTOR[a]`, entry 0 unused -/
  factor : Vector Rat 15
  /-- `OFFSET[a]`, entry 0 unused -/
  offset : Vector Rat 15
  /-- `CRC_POLY`, `CRC_INIT` and the other parameters of spec/43_crc.md R261 -/
  crc : CrcParams
  /-- `Sample`, `rnd` -/
  format : NumberFormat
  /-- `LOCK_MASK` -/
  lockMask : Word
  /-- `RESYNC_ADVANCE` -/
  resyncAdvance : Nat
  /-- `STRICT_VALIDATE` -/
  strictValidate : StrictValidate
  /-- `XING_FLAGS` -/
  xingFlags : XingFlags
  /-- `FRAME_BUF_CAP` -/
  frameBufCap : Nat
  /-- `SUBBANDS_L23(h)` -/
  subbandsL23 : SubbandFunction
  deriving DecidableEq, Repr

/-- The entry of a version. -/
def PerVersion.get {α : Type} (p : PerVersion α) : Version → α
  | .mpeg1 => p.mpeg1
  | .mpeg2Lsf => p.mpeg2Lsf
  | .mpeg25Lsf => p.mpeg25Lsf

/-- The entry of a layer. -/
def PerLayer.get {α : Type} (p : PerLayer α) : Layer → α
  | .one => p.one
  | .two => p.two
  | .three => p.three

/-- The reader's position after an `IoFailure`, which the spec leaves at "any value"
(spec/60_exceptions.md R377, spec/93_implementation_defined.md U17): a free value, taken at a counter of
the state. Nothing constrains it (log 11). -/
opaque Config.posAfterIoFailure : Nat → Nat

/-- `rnd` of a number format that is neither binary nor exact (spec/00_scope.md R6), by the format's number: the sample
of an exact result, with the sign an exact zero has. Nothing constrains it (log 29). -/
opaque Config.roundOther (n : Nat) (zeroNegative : Bool) (q : Rat) : Sample

end Sys2Proof
end

