-- ==== Sys2Proof/Machine/Numerics.lean ====
section
/-! DEFINITION. Multiplication and addition in the number format of the parameters `Sample` and `rnd`
(spec/00_scope.md R6, spec/45_samples_sink.md R313): the result on the exact numbers is a rational, and one rounding
makes a sample of it. R6's value of the format is binary32, to nearest even. With it no operation of the block meets or
makes an infinity or a NaN (spec/45_samples_sink.md R306); what happens on them is IEEE 754's (log 16). -/

namespace Sys2Proof.Machine

open Sys2Proof

/-! ### Samples -/

/-- The sign of a sample; that of a NaN counts as positive. -/
def sampleNegative : Sample → Bool
  | .number q => decide (q.num < 0)
  | .negativeZero => true
  | .infinity negative => negative
  | .notANumber => false

/-- The number a finite sample stands for. -/
def sampleValue : Sample → Option Rat
  | .number q => some q
  | .negativeZero => some 0
  | .infinity _ => none
  | .notANumber => none

/-- A zero with a sign. -/
def signedZero (negative : Bool) : Sample := if negative then .negativeZero else .number 0

/-- `(-1)^negative * m * 2^e`. -/
def dyadic (negative : Bool) (m : Nat) (e : Int) : Rat :=
  mkRat ((if negative then -1 else 1) * (m * 2 ^ e.toNat : Nat)) (2 ^ (-e).toNat)

/-! ### Rounding to a binary format -/

/-- One more than the greatest exponent of a finite number's leading bit. -/
def exponentLimit (f : BinaryFormat) : Int := (2 : Int) ^ (f.expBits - 1)

/-- The exponent of the least positive number: that of a subnormal's last bit. -/
def leastExp (f : BinaryFormat) : Int := 2 - exponentLimit f - f.fracBits

/-- The finite number of the greatest magnitude. -/
def largestFinite (f : BinaryFormat) (negative : Bool) : Sample :=
  .number (dyadic negative (2 ^ (f.fracBits + 1) - 1) (exponentLimit f - 1 - f.fracBits))

/-- Does the rounding of a number with the sign `negative` take the greater of the two neighbouring magnitudes, where
`q` is the lesser one and `r` of `unit` parts lie above it? -/
def roundsUp (mode : Rounding) (negative : Bool) (q r unit : Nat) : Bool :=
  match mode with
  | .nearestEven => decide (unit < 2 * r) || (decide (2 * r = unit) && decide (q % 2 = 1))
  | .nearestAway => decide (unit ≤ 2 * r)
  | .towardZero => false
  | .towardPositive => !negative && decide (r ≠ 0)
  | .towardNegative => negative && decide (r ≠ 0)

/-- The magnitude `m / unit` rounded to a natural. -/
def roundQuotient (mode : Rounding) (negative : Bool) (m unit : Nat) : Nat :=
  if roundsUp mode negative (m / unit) (m % unit) unit then m / unit + 1 else m / unit

/-- The exponent of the leading bit of `n / d`, both positive: the greatest `k` with `2^k ≤ n / d`. -/
def leadingExp (n d : Nat) : Int :=
  let k := (n.log2 : Int) - d.log2
  if d * 2 ^ k.toNat ≤ n * 2 ^ (-k).toNat then k else k - 1

/-- A result beyond the largest finite number: the infinity, or the largest finite number where the rounding is not
toward that infinity. -/
def overflowResult (f : BinaryFormat) (negative : Bool) : Sample :=
  match f.rounding with
  | .nearestEven => .infinity negative
  | .nearestAway => .infinity negative
  | .towardZero => largestFinite f negative
  | .towardPositive => if negative then largestFinite f negative else .infinity negative
  | .towardNegative => if negative then .infinity negative else largestFinite f negative

/-- `rnd` of a binary format, with the sign an exact zero has: the magnitude is rounded to a multiple of `2^e`, where
`e` is the exponent of the last fraction bit. -/
def roundBinary (f : BinaryFormat) (zeroNegative : Bool) (q : Rat) : Sample :=
  let n := q.num.natAbs
  if n = 0 then signedZero zeroNegative
  else
    let negative := decide (q.num < 0)
    let e := max (leadingExp n q.den - f.fracBits) (leastExp f)
    let m := roundQuotient f.rounding negative (n * 2 ^ (-e).toNat) (q.den * 2 ^ e.toNat)
    if m = 0 then signedZero negative
    else if exponentLimit f ≤ m.log2 + e then overflowResult f negative
    else .number (dyadic negative m e)

/-! ### The operations -/

/-- `rnd` (spec/00_scope.md R6) of an exact result, with the sign an exact zero has where the format has both zeros. -/
def rnd (f : NumberFormat) (zeroNegative : Bool) (q : Rat) : Sample :=
  match f with
  | .binary b => roundBinary b zeroNegative q
  | .exact => .number q
  | .other n => Config.roundOther n zeroNegative q

/-- The sign of an exact zero sum: that of the operands where they agree, else negative only where a binary format
rounds toward the negative. -/
def zeroSumNegative (f : NumberFormat) (x y : Bool) : Bool :=
  match f with
  | .binary b => (x && y) || ((x != y) && b.rounding == .towardNegative)
  | _ => x && y

/-- The exact product, as a computation on numerators and denominators. -/
def exactProduct (a b : Rat) : Rat := mkRat (a.num * b.num) (a.den * b.den)

/-- The exact sum. -/
def exactSum (a b : Rat) : Rat := mkRat (a.num * b.den + b.num * a.den) (a.den * b.den)

/-- One multiplication. The sign of the product is the exclusive or of the signs. -/
def sampleMul (f : NumberFormat) (x y : Sample) : Sample :=
  let negative := sampleNegative x != sampleNegative y
  match sampleValue x, sampleValue y with
  | some a, some b => rnd f negative (exactProduct a b)
  | a, b => if x = .notANumber ∨ y = .notANumber ∨ a = some 0 ∨ b = some 0 then .notANumber else .infinity negative

/-- One addition. -/
def sampleAdd (f : NumberFormat) (x y : Sample) : Sample :=
  match sampleValue x, sampleValue y with
  | some a, some b => rnd f (zeroSumNegative f (sampleNegative x) (sampleNegative y)) (exactSum a b)
  | some _, none => y
  | none, some _ => x
  | none, none => if x = y then x else .notANumber

/-! ### Bit patterns -/

/-- The sample a bit pattern of a binary format stands for. -/
def sampleOfBits (f : BinaryFormat) (pattern : Nat) : Sample :=
  let negative := decide (pattern / 2 ^ (f.expBits + f.fracBits) % 2 = 1)
  let field := pattern / 2 ^ f.fracBits % 2 ^ f.expBits
  let frac := pattern % 2 ^ f.fracBits
  if field = 2 ^ f.expBits - 1 then (if frac = 0 then .infinity negative else .notANumber)
  else if field = 0 then (if frac = 0 then signedZero negative else .number (dyadic negative frac (leastExp f)))
  else .number (dyadic negative (frac + 2 ^ f.fracBits) (leastExp f + field - 1))

/-- IEEE 754 binary32, round to nearest even (spec/45_samples_sink.md R313, decision D12). -/
def binary32 : BinaryFormat where
  expBits := 8
  fracBits := 23
  rounding := .nearestEven

/-- The binary32 number of a pattern, as the spec prints samples. -/
def single (pattern : Word) : Sample := sampleOfBits binary32 pattern.toNat

end Sys2Proof.Machine
end

