-- ==== Sys2Proof/Syntax.lean ====
section
/-! DEFINITION. The bitstream elements of spec/opcode_table.json, one constructor a row, with the operand fields
each row leaves free (spec/30_encoding.md R110 to R122). -/

namespace Sys2Proof

/-- The header bits 16 to 0, which no row of a valid version and layer fixes (spec/30_encoding.md R111). -/
structure HdrTail where
  /-- bit 16: 0 = a checksum field follows -/
  protection : BitVec 1
  /-- bits 15-12 -/
  bitrateIndex : BitVec 4
  /-- bits 11-10 -/
  sampleRateIndex : BitVec 2
  /-- bit 9 -/
  padding : BitVec 1
  /-- bit 8, ignored -/
  privateBit : BitVec 1
  /-- bits 7-6 -/
  channelMode : BitVec 2
  /-- bits 5-4 -/
  modeExtension : BitVec 2
  /-- bit 3 -/
  copyright : BitVec 1
  /-- bit 2 -/
  original : BitVec 1
  /-- bits 1-0, ignored -/
  emphasis : BitVec 2
  deriving DecidableEq, Repr

/-- Every field of a header word below the sync field: bits 20-19 (marker and version bit), bits 18-17 (layer) and
the rest (spec/30_encoding.md R111). -/
structure HdrFields where
  versionBits : BitVec 2
  layerBits : BitVec 2
  tail : HdrTail
  deriving DecidableEq, Repr

/-- The elements of the stream (spec/opcode_table.json). -/
inductive Instr where
  /-- `HDR.BADVER`: `H[20:19] = 01`. -/
  | hdrBadVer (layerBits : BitVec 2) (t : HdrTail)
  /-- `HDR.L0`: layer field 00 with a valid version. -/
  | hdrL0 (versionBits : BitVec 2) (t : HdrTail)
  /-- `HDR.BADRATE`: sample-rate index 3 with a valid version and layer. -/
  | hdrBadRate (versionBits layerBits : BitVec 2) (t : HdrTail)
  /-- `HDR.FREEFMT`: bitrate index 0 with a valid version, layer and sample rate. -/
  | hdrFreeFmt (versionBits layerBits : BitVec 2) (t : HdrTail)
  /-- `HDR.BADBR`: bitrate index 15 with a valid version, layer and sample rate. -/
  | hdrBadBr (versionBits layerBits : BitVec 2) (t : HdrTail)
  /-- `HDR.M1.L1`: MPEG1, Layer I. -/
  | hdrM1L1 (t : HdrTail)
  /-- `HDR.M1.L2`: MPEG1, Layer II. -/
  | hdrM1L2 (t : HdrTail)
  /-- `HDR.M1.L3`: MPEG1, Layer III. -/
  | hdrM1L3 (t : HdrTail)
  /-- `HDR.M2.L1`: MPEG2_LSF, Layer I. -/
  | hdrM2L1 (t : HdrTail)
  /-- `HDR.M2.L2`: MPEG2_LSF, Layer II. -/
  | hdrM2L2 (t : HdrTail)
  /-- `HDR.M2.L3`: MPEG2_LSF, Layer III. -/
  | hdrM2L3 (t : HdrTail)
  /-- `HDR.M25.L1`: MPEG2_5_LSF, Layer I. -/
  | hdrM25L1 (t : HdrTail)
  /-- `HDR.M25.L2`: MPEG2_5_LSF, Layer II. -/
  | hdrM25L2 (t : HdrTail)
  /-- `HDR.M25.L3`: MPEG2_5_LSF, Layer III. -/
  | hdrM25L3 (t : HdrTail)
  /-- `CRCW`: the checksum field. -/
  | crcw (field : BitVec 16)
  /-- `ALLOC.0`. -/
  | alloc0
  /-- `ALLOC.1`. -/
  | alloc1
  /-- `ALLOC.2`. -/
  | alloc2
  /-- `ALLOC.3`. -/
  | alloc3
  /-- `ALLOC.4`. -/
  | alloc4
  /-- `ALLOC.5`. -/
  | alloc5
  /-- `ALLOC.6`. -/
  | alloc6
  /-- `ALLOC.7`. -/
  | alloc7
  /-- `ALLOC.8`. -/
  | alloc8
  /-- `ALLOC.9`. -/
  | alloc9
  /-- `ALLOC.10`. -/
  | alloc10
  /-- `ALLOC.11`. -/
  | alloc11
  /-- `ALLOC.12`. -/
  | alloc12
  /-- `ALLOC.13`. -/
  | alloc13
  /-- `ALLOC.14`. -/
  | alloc14
  /-- `ALLOC.15` (reserved). -/
  | alloc15
  /-- `SCF.63`: the defined-zero scale-factor index. -/
  | scf63
  /-- `SCF`: a scale-factor index 0 to 62. -/
  | scf (index : BitVec 6)
  /-- `SAMP.2`: a sample code of 2 bits. -/
  | samp2 (raw : BitVec 2)
  /-- `SAMP.3`: a sample code of 3 bits. -/
  | samp3 (raw : BitVec 3)
  /-- `SAMP.4`: a sample code of 4 bits. -/
  | samp4 (raw : BitVec 4)
  /-- `SAMP.5`: a sample code of 5 bits. -/
  | samp5 (raw : BitVec 5)
  /-- `SAMP.6`: a sample code of 6 bits. -/
  | samp6 (raw : BitVec 6)
  /-- `SAMP.7`: a sample code of 7 bits. -/
  | samp7 (raw : BitVec 7)
  /-- `SAMP.8`: a sample code of 8 bits. -/
  | samp8 (raw : BitVec 8)
  /-- `SAMP.9`: a sample code of 9 bits. -/
  | samp9 (raw : BitVec 9)
  /-- `SAMP.10`: a sample code of 10 bits. -/
  | samp10 (raw : BitVec 10)
  /-- `SAMP.11`: a sample code of 11 bits. -/
  | samp11 (raw : BitVec 11)
  /-- `SAMP.12`: a sample code of 12 bits. -/
  | samp12 (raw : BitVec 12)
  /-- `SAMP.13`: a sample code of 13 bits. -/
  | samp13 (raw : BitVec 13)
  /-- `SAMP.14`: a sample code of 14 bits. -/
  | samp14 (raw : BitVec 14)
  /-- `SAMP.15`: a sample code of 15 bits. -/
  | samp15 (raw : BitVec 15)
  /-- `XING`: the tag "Xing". -/
  | xing
  /-- `VBRI`: the tag "VBRI". -/
  | vbri
  deriving DecidableEq, Repr

/-- The formats of spec/30_encoding.md R110. Which one stands next is a matter of the position in the frame
(R120), never of the bits. -/
inductive Kind where
  | h32
  | c16
  | a4
  | s6
  | q (n : Nat)
  | t32
  deriving DecidableEq, Repr

/-- Length in bits of an element of each format (spec/30_encoding.md R110). -/
def Kind.width : Kind → Nat
  | .h32 => 32
  | .c16 => 16
  | .a4 => 4
  | .s6 => 6
  | .q n => n
  | .t32 => 32

/-- The header fields an element carries, where it is a header word. -/
def Instr.headerFields : Instr → Option HdrFields
  | .hdrBadVer l t => some ⟨0b01#2, l, t⟩
  | .hdrL0 v t => some ⟨v, 0b00#2, t⟩
  | .hdrBadRate v l t => some ⟨v, l, t⟩
  | .hdrFreeFmt v l t => some ⟨v, l, t⟩
  | .hdrBadBr v l t => some ⟨v, l, t⟩
  | .hdrM1L1 t => some ⟨0b11#2, 0b11#2, t⟩
  | .hdrM1L2 t => some ⟨0b11#2, 0b10#2, t⟩
  | .hdrM1L3 t => some ⟨0b11#2, 0b01#2, t⟩
  | .hdrM2L1 t => some ⟨0b10#2, 0b11#2, t⟩
  | .hdrM2L2 t => some ⟨0b10#2, 0b10#2, t⟩
  | .hdrM2L3 t => some ⟨0b10#2, 0b01#2, t⟩
  | .hdrM25L1 t => some ⟨0b00#2, 0b11#2, t⟩
  | .hdrM25L2 t => some ⟨0b00#2, 0b10#2, t⟩
  | .hdrM25L3 t => some ⟨0b00#2, 0b01#2, t⟩
  | _ => none

/-- The allocation code an element is, where it is one (spec/30_encoding.md R117). -/
def Instr.allocCode : Instr → Option (BitVec 4)
  | .alloc0 => some 0#4
  | .alloc1 => some 1#4
  | .alloc2 => some 2#4
  | .alloc3 => some 3#4
  | .alloc4 => some 4#4
  | .alloc5 => some 5#4
  | .alloc6 => some 6#4
  | .alloc7 => some 7#4
  | .alloc8 => some 8#4
  | .alloc9 => some 9#4
  | .alloc10 => some 10#4
  | .alloc11 => some 11#4
  | .alloc12 => some 12#4
  | .alloc13 => some 13#4
  | .alloc14 => some 14#4
  | .alloc15 => some 15#4
  | _ => none

/-- The scale-factor index an element is, where it is one (spec/30_encoding.md R118). -/
def Instr.scfIndex : Instr → Option (BitVec 6)
  | .scf63 => some 63#6
  | .scf i => some i
  | _ => none

/-- The length and the raw code of an element that is a sample code, the code zero-extended to 15 bits
(spec/30_encoding.md R119). -/
def Instr.sampleCode : Instr → Option (Nat × BitVec 15)
  | .samp2 raw => some (2, raw.zeroExtend 15)
  | .samp3 raw => some (3, raw.zeroExtend 15)
  | .samp4 raw => some (4, raw.zeroExtend 15)
  | .samp5 raw => some (5, raw.zeroExtend 15)
  | .samp6 raw => some (6, raw.zeroExtend 15)
  | .samp7 raw => some (7, raw.zeroExtend 15)
  | .samp8 raw => some (8, raw.zeroExtend 15)
  | .samp9 raw => some (9, raw.zeroExtend 15)
  | .samp10 raw => some (10, raw.zeroExtend 15)
  | .samp11 raw => some (11, raw.zeroExtend 15)
  | .samp12 raw => some (12, raw.zeroExtend 15)
  | .samp13 raw => some (13, raw.zeroExtend 15)
  | .samp14 raw => some (14, raw.zeroExtend 15)
  | .samp15 raw => some (15, raw.zeroExtend 15)
  | _ => none

end Sys2Proof
end

