-- ==== Sys2Proof/WellFormed.lean ====
section
/-! DEFINITION. Which elements are well formed: the operand values an opcode-table row admits, given that of the
rows that match a word the one with the lowest priority applies (spec/30_encoding.md R124). -/

namespace Sys2Proof

/-- `H[20:19] = 01` names no version (spec/30_encoding.md R113). -/
def validVersion (v : BitVec 2) : Bool := v != 0b01#2

/-- `H[18:17] = 00` names no layer (spec/30_encoding.md R114). -/
def validLayer (l : BitVec 2) : Bool := l != 0b00#2

/-- Sample-rate index 3 is reserved (spec/41_header.md R195). -/
def validRate (t : HdrTail) : Bool := t.sampleRateIndex != 3#2

/-- Bitrate indices 0 and 15 are refused (spec/41_header.md R202). -/
def validBitrate (t : HdrTail) : Bool := t.bitrateIndex != 0#4 && t.bitrateIndex != 15#4

/-- The words of the row and of no row of lower priority (spec/30_encoding.md R124, spec/41_header.md R212 to
R225). -/
def Instr.wf : Instr → Bool
  | .hdrBadVer _ _ => true
  | .hdrL0 v _ => validVersion v
  | .hdrBadRate v l t => validVersion v && validLayer l && t.sampleRateIndex == 3#2
  | .hdrFreeFmt v l t => validVersion v && validLayer l && validRate t && t.bitrateIndex == 0#4
  | .hdrBadBr v l t => validVersion v && validLayer l && validRate t && t.bitrateIndex == 15#4
  | .hdrM1L1 t | .hdrM1L2 t | .hdrM1L3 t | .hdrM2L1 t | .hdrM2L2 t | .hdrM2L3 t
  | .hdrM25L1 t | .hdrM25L2 t | .hdrM25L3 t => validRate t && validBitrate t
  | .scf i => i != 63#6
  | _ => true

end Sys2Proof
end

