-- ==== Sys2Proof/Decode.lean ====
section
/-! DEFINITION. From bits to elements and back: reading bits of a byte list, the decoder of each format
(spec/30_encoding.md), the encoder, and the reading of an opcode-table word. Everything is most significant bit
first (spec/20_memory.md R77, R96). -/

namespace Sys2Proof

/-- Why bits are no element, by name. -/
inductive Reject where
  /-- the 11 sync bits of a header word are not all ones (spec/30_encoding.md R112) -/
  | notASyncWord
  /-- the 32 bits are neither "Xing" nor "VBRI" (spec/42_vbr.md R243, R249) -/
  | notATag
  /-- no sample code has this length (spec/30_encoding.md R119) -/
  | noSuchSampleLength
  /-- the bytes end before the element does -/
  | tooFewBits
  deriving DecidableEq, Repr

/-! ### Bits of bytes -/

/-- Bit `b` of a byte list: bit `7 - b mod 8` of byte `b div 8` (spec/20_memory.md R77). A bit beyond the list
reads false; every reader tests the length first. -/
def bitAt (bytes : List Byte) (b : Nat) : Bool := (bytes.getD (b / 8) 0#8).getLsbD (7 - b % 8)

/-- The `n` bits at bit offset `pos`, the first the most significant (spec/20_memory.md R77). -/
def bitsAt (bytes : List Byte) (pos : Nat) : (n : Nat) → BitVec n
  | 0 => 0#0
  | n + 1 => (bitsAt bytes pos n).concat (bitAt bytes (pos + n))

/-- Four bytes as a word, the first the most significant (spec/20_memory.md R96). -/
def wordOfBytes (b0 b1 b2 b3 : Byte) : Word := b0 ++ b1 ++ b2 ++ b3

/-- The four bytes of a word in stream order (spec/20_memory.md R96). -/
def bytesOfWord (w : Word) : List Byte :=
  [w.extractLsb' 24 8, w.extractLsb' 16 8, w.extractLsb' 8 8, w.extractLsb' 0 8]

/-! ### The decoder -/

/-- The fields of a header word (spec/30_encoding.md R111). -/
def headerFieldsOf (w : Word) : HdrFields where
  versionBits := w.extractLsb' 19 2
  layerBits := w.extractLsb' 17 2
  tail :=
    { protection := w.extractLsb' 16 1
      bitrateIndex := w.extractLsb' 12 4
      sampleRateIndex := w.extractLsb' 10 2
      padding := w.extractLsb' 9 1
      privateBit := w.extractLsb' 8 1
      channelMode := w.extractLsb' 6 2
      modeExtension := w.extractLsb' 4 2
      copyright := w.extractLsb' 3 1
      original := w.extractLsb' 2 1
      emphasis := w.extractLsb' 0 2 }

/-- The row of a header with a valid version, layer, sample rate and bitrate index, by version and layer field
(spec/41_header.md R212 to R220). Version 01 and layer 00 do not come here; they fall to the rows that name
them. -/
def headerRow (v l : BitVec 2) (t : HdrTail) : Instr :=
  match v.toNat, l.toNat with
  | 3, 3 => .hdrM1L1 t
  | 3, 2 => .hdrM1L2 t
  | 3, 1 => .hdrM1L3 t
  | 2, 3 => .hdrM2L1 t
  | 2, 2 => .hdrM2L2 t
  | 2, 1 => .hdrM2L3 t
  | 0, 3 => .hdrM25L1 t
  | 0, 2 => .hdrM25L2 t
  | 0, 1 => .hdrM25L3 t
  | 1, _ => .hdrBadVer l t
  | _, _ => .hdrL0 v t

/-- The rows of format H32 in the order of their priorities (spec/30_encoding.md R124). -/
def headerInstr (f : HdrFields) : Instr :=
  if f.versionBits = 0b01#2 then .hdrBadVer f.layerBits f.tail
  else if f.layerBits = 0b00#2 then .hdrL0 f.versionBits f.tail
  else if f.tail.sampleRateIndex = 3#2 then .hdrBadRate f.versionBits f.layerBits f.tail
  else if f.tail.bitrateIndex = 0#4 then .hdrFreeFmt f.versionBits f.layerBits f.tail
  else if f.tail.bitrateIndex = 15#4 then .hdrBadBr f.versionBits f.layerBits f.tail
  else headerRow f.versionBits f.layerBits f.tail

/-- Format H32 (spec/30_encoding.md R111, R112). -/
def decodeHeader (w : Word) : Except Reject Instr :=
  if w.extractLsb' 21 11 = 0x7FF#11 then .ok (headerInstr (headerFieldsOf w)) else .error .notASyncWord

/-- Format A4 (spec/30_encoding.md R117). -/
def decodeAlloc (a : BitVec 4) : Instr :=
  match a.toNat with
  | 0 => .alloc0
  | 1 => .alloc1
  | 2 => .alloc2
  | 3 => .alloc3
  | 4 => .alloc4
  | 5 => .alloc5
  | 6 => .alloc6
  | 7 => .alloc7
  | 8 => .alloc8
  | 9 => .alloc9
  | 10 => .alloc10
  | 11 => .alloc11
  | 12 => .alloc12
  | 13 => .alloc13
  | 14 => .alloc14
  | _ => .alloc15

/-- Format S6 (spec/30_encoding.md R118); `SCF.63` goes before `SCF` (R124). -/
def decodeScf (i : BitVec 6) : Instr := if i = 63#6 then .scf63 else .scf i

/-- Format Qn (spec/30_encoding.md R119), the code in the low `n` bits of `w`. -/
def decodeSample (n : Nat) (w : Word) : Except Reject Instr :=
  match n with
  | 2 => .ok (.samp2 (w.extractLsb' 0 2))
  | 3 => .ok (.samp3 (w.extractLsb' 0 3))
  | 4 => .ok (.samp4 (w.extractLsb' 0 4))
  | 5 => .ok (.samp5 (w.extractLsb' 0 5))
  | 6 => .ok (.samp6 (w.extractLsb' 0 6))
  | 7 => .ok (.samp7 (w.extractLsb' 0 7))
  | 8 => .ok (.samp8 (w.extractLsb' 0 8))
  | 9 => .ok (.samp9 (w.extractLsb' 0 9))
  | 10 => .ok (.samp10 (w.extractLsb' 0 10))
  | 11 => .ok (.samp11 (w.extractLsb' 0 11))
  | 12 => .ok (.samp12 (w.extractLsb' 0 12))
  | 13 => .ok (.samp13 (w.extractLsb' 0 13))
  | 14 => .ok (.samp14 (w.extractLsb' 0 14))
  | 15 => .ok (.samp15 (w.extractLsb' 0 15))
  | _ => .error .noSuchSampleLength

/-- The bytes 58 69 6E 67 (spec/42_vbr.md R243). -/
def xingTag : Word := 0x58696E67#32

/-- The bytes 56 42 52 49 (spec/42_vbr.md R249). -/
def vbriTag : Word := 0x56425249#32

/-- Format T32 (spec/30_encoding.md R121, R122). -/
def decodeTag (w : Word) : Except Reject Instr :=
  if w = xingTag then .ok .xing
  else if w = vbriTag then .ok .vbri
  else .error .notATag

/-- The element of format `k` whose bits are the low `k.width` bits of `w`. -/
def decodeWord (k : Kind) (w : Word) : Except Reject Instr :=
  match k with
  | .h32 => decodeHeader w
  | .c16 => .ok (.crcw (w.extractLsb' 0 16))
  | .a4 => .ok (decodeAlloc (w.extractLsb' 0 4))
  | .s6 => .ok (decodeScf (w.extractLsb' 0 6))
  | .q n => decodeSample n w
  | .t32 => decodeTag w

/-- The element of format `k` at bit offset `pos` of a byte list; total on any bytes. -/
def decodeAt (k : Kind) (bytes : List Byte) (pos : Nat) : Except Reject Instr :=
  if 8 * bytes.length < pos + k.width then .error .tooFewBits
  else decodeWord k ((bitsAt bytes pos k.width).zeroExtend 32)

/-! ### The encoder -/

/-- The format of an element (spec/30_encoding.md R110). -/
def Instr.kind : Instr → Kind
  | .hdrBadVer _ _ | .hdrL0 _ _ | .hdrBadRate _ _ _ | .hdrFreeFmt _ _ _ | .hdrBadBr _ _ _
  | .hdrM1L1 _ | .hdrM1L2 _ | .hdrM1L3 _ | .hdrM2L1 _ | .hdrM2L2 _ | .hdrM2L3 _
  | .hdrM25L1 _ | .hdrM25L2 _ | .hdrM25L3 _ => .h32
  | .crcw _ => .c16
  | .alloc0 | .alloc1 | .alloc2 | .alloc3 | .alloc4 | .alloc5 | .alloc6 | .alloc7 | .alloc8 | .alloc9 | .alloc10 | .alloc11 | .alloc12 | .alloc13 | .alloc14 | .alloc15 => .a4
  | .scf63 | .scf _ => .s6
  | .samp2 _ => .q 2
  | .samp3 _ => .q 3
  | .samp4 _ => .q 4
  | .samp5 _ => .q 5
  | .samp6 _ => .q 6
  | .samp7 _ => .q 7
  | .samp8 _ => .q 8
  | .samp9 _ => .q 9
  | .samp10 _ => .q 10
  | .samp11 _ => .q 11
  | .samp12 _ => .q 12
  | .samp13 _ => .q 13
  | .samp14 _ => .q 14
  | .samp15 _ => .q 15
  | .xing | .vbri => .t32

/-- A header word from its fields: each field at its lowest bit's place (spec/30_encoding.md R111). -/
def encodeHeader (v l : BitVec 2) (t : HdrTail) : Word :=
  BitVec.ofNat 32
    (0x7FF * 2 ^ 21 + v.toNat * 2 ^ 19 + l.toNat * 2 ^ 17 + t.protection.toNat * 2 ^ 16
      + t.bitrateIndex.toNat * 2 ^ 12 + t.sampleRateIndex.toNat * 2 ^ 10 + t.padding.toNat * 2 ^ 9
      + t.privateBit.toNat * 2 ^ 8 + t.channelMode.toNat * 2 ^ 6 + t.modeExtension.toNat * 2 ^ 4
      + t.copyright.toNat * 2 ^ 3 + t.original.toNat * 2 ^ 2 + t.emphasis.toNat)

/-- The bits of an element, in the low `i.kind.width` bits of a word (spec/30_encoding.md R111 to R122). -/
def encode : Instr → Word
  | .hdrBadVer l t => encodeHeader 0b01#2 l t
  | .hdrL0 v t => encodeHeader v 0b00#2 t
  | .hdrBadRate v l t => encodeHeader v l t
  | .hdrFreeFmt v l t => encodeHeader v l t
  | .hdrBadBr v l t => encodeHeader v l t
  | .hdrM1L1 t => encodeHeader 0b11#2 0b11#2 t
  | .hdrM1L2 t => encodeHeader 0b11#2 0b10#2 t
  | .hdrM1L3 t => encodeHeader 0b11#2 0b01#2 t
  | .hdrM2L1 t => encodeHeader 0b10#2 0b11#2 t
  | .hdrM2L2 t => encodeHeader 0b10#2 0b10#2 t
  | .hdrM2L3 t => encodeHeader 0b10#2 0b01#2 t
  | .hdrM25L1 t => encodeHeader 0b00#2 0b11#2 t
  | .hdrM25L2 t => encodeHeader 0b00#2 0b10#2 t
  | .hdrM25L3 t => encodeHeader 0b00#2 0b01#2 t
  | .crcw c => c.zeroExtend 32
  | .alloc0 => 0#32
  | .alloc1 => 1#32
  | .alloc2 => 2#32
  | .alloc3 => 3#32
  | .alloc4 => 4#32
  | .alloc5 => 5#32
  | .alloc6 => 6#32
  | .alloc7 => 7#32
  | .alloc8 => 8#32
  | .alloc9 => 9#32
  | .alloc10 => 10#32
  | .alloc11 => 11#32
  | .alloc12 => 12#32
  | .alloc13 => 13#32
  | .alloc14 => 14#32
  | .alloc15 => 15#32
  | .scf63 => 63#32
  | .scf i => i.zeroExtend 32
  | .samp2 raw => raw.zeroExtend 32
  | .samp3 raw => raw.zeroExtend 32
  | .samp4 raw => raw.zeroExtend 32
  | .samp5 raw => raw.zeroExtend 32
  | .samp6 raw => raw.zeroExtend 32
  | .samp7 raw => raw.zeroExtend 32
  | .samp8 raw => raw.zeroExtend 32
  | .samp9 raw => raw.zeroExtend 32
  | .samp10 raw => raw.zeroExtend 32
  | .samp11 raw => raw.zeroExtend 32
  | .samp12 raw => raw.zeroExtend 32
  | .samp13 raw => raw.zeroExtend 32
  | .samp14 raw => raw.zeroExtend 32
  | .samp15 raw => raw.zeroExtend 32
  | .xing => xingTag
  | .vbri => vbriTag

/-- `n` bits, the low bits of `w`, as bytes: most significant bit first, the last byte filled with zeros
(the packing of spec/30_encoding.md R127). -/
def packBits (n : Nat) (w : Nat) : List Byte :=
  (List.range ((n + 7) / 8)).map fun k => BitVec.ofNat 8 (w * 2 ^ (8 * ((n + 7) / 8) - n) / 2 ^ (8 * ((n + 7) / 8 - 1 - k)))

/-! ### An opcode-table word -/

/-- The format a table word stands for, by its number of bits and its value. On this hardware the position in the
frame says what an element is (spec/30_encoding.md R110) and the bits alone do not, so where several formats have
one width in whole bytes this is a choice (log 19): 32 bits are a tag where they are one, else a header; 16 bits are
the checksum field; 8 bits are an allocation code below 16, a scale-factor index below 64, else a sample code. -/
def tableKind (nbits w : Nat) : Kind :=
  if nbits = 32 then
    if BitVec.ofNat 32 w = xingTag ∨ BitVec.ofNat 32 w = vbriTag then .t32 else .h32
  else if nbits = 16 then .c16
  else if nbits = 8 then
    if w < 16 then .a4 else if w < 64 then .s6 else .q 8
  else if nbits = 4 then .a4
  else if nbits = 6 then .s6
  else .q nbits

/-- The element the decoder reads from an opcode-table word: the element's bits are laid out as the stream
holds them and decoded from there. -/
def decodeTableWord (nbits w : Nat) : Option Instr :=
  match decodeAt (tableKind nbits w) (packBits (tableKind nbits w).width w) 0 with
  | .ok i => some i
  | .error _ => none

end Sys2Proof
end

