-- ==== Sys2Proof/Machine/Rom.lean ====
section
/-! DEFINITION. The constant tables of spec/20_memory.md R90 to R94 and the other parameters of spec/00_scope.md R6,
with the values the spec prints, and the reads of the tables. The values the spec marks "from general knowledge" are
PRESUMED by it (log 14). -/

namespace Sys2Proof.Machine

open Sys2Proof

/-! ### R6's values -/

/-- The rows of `BITRATE` of one version in bits per second, indices 0 to 15 (spec/20_memory.md R91). Indices 0 and 15
hold 0 and are never used (spec/41_header.md R202). -/
def bitrateTable : PerVersion (PerLayer (Vector Nat 16)) :=
  let lsf : PerLayer (Vector Nat 16) :=
    { one := #v[0, 32000, 48000, 56000, 64000, 80000, 96000, 112000, 128000, 144000, 160000, 176000, 192000, 224000,
        256000, 0]
      two := #v[0, 8000, 16000, 24000, 32000, 40000, 48000, 56000, 64000, 80000, 96000, 112000, 128000, 144000,
        160000, 0]
      three := #v[0, 8000, 16000, 24000, 32000, 40000, 48000, 56000, 64000, 80000, 96000, 112000, 128000, 144000,
        160000, 0] }
  { mpeg1 :=
      { one := #v[0, 32000, 64000, 96000, 128000, 160000, 192000, 224000, 256000, 288000, 320000, 352000, 384000,
          416000, 448000, 0]
        two := #v[0, 32000, 48000, 56000, 64000, 80000, 96000, 112000, 128000, 160000, 192000, 224000, 256000, 320000,
          384000, 0]
        three := #v[0, 32000, 40000, 48000, 56000, 64000, 80000, 96000, 112000, 128000, 160000, 192000, 224000,
          256000, 320000, 0] }
    mpeg2Lsf := lsf
    mpeg25Lsf := lsf }

/-- `FREQ` in Hz, indices 0 to 2 (spec/20_memory.md R92). -/
def freqTable : PerVersion (Vector Nat 3) where
  mpeg1 := #v[44100, 48000, 32000]
  mpeg2Lsf := #v[22050, 24000, 16000]
  mpeg25Lsf := #v[11025, 12000, 8000]

/-- `rnd(SCALE[i])` as the spec prints it, binary32 patterns of indices 0 to 63 (spec/20_memory.md R93). -/
def scaleTable : List Word :=
  [0x40000000#32, 0x3FCB2FF5#32, 0x3FA14518#32, 0x3F800000#32, 0x3F4B2FF5#32, 0x3F214518#32, 0x3F000000#32] ++
  [0x3ECB2FF5#32, 0x3EA14518#32, 0x3E800000#32, 0x3E4B2FF5#32, 0x3E214518#32, 0x3E000000#32, 0x3DCB2FF5#32] ++
  [0x3DA14518#32, 0x3D800000#32, 0x3D4B2FF5#32, 0x3D214518#32, 0x3D000000#32, 0x3CCB2FF5#32, 0x3CA14518#32] ++
  [0x3C800000#32, 0x3C4B2FF5#32, 0x3C214518#32, 0x3C000000#32, 0x3BCB2FF5#32, 0x3BA14518#32, 0x3B800000#32] ++
  [0x3B4B2FF5#32, 0x3B214518#32, 0x3B000000#32, 0x3ACB2FF5#32, 0x3AA14518#32, 0x3A800000#32, 0x3A4B2FF5#32] ++
  [0x3A214518#32, 0x3A000000#32, 0x39CB2FF5#32, 0x39A14518#32, 0x39800000#32, 0x394B2FF5#32, 0x39214518#32] ++
  [0x39000000#32, 0x38CB2FF5#32, 0x38A14518#32, 0x38800000#32, 0x384B2FF5#32, 0x38214518#32, 0x38000000#32] ++
  [0x37CB2FF5#32, 0x37A14518#32, 0x37800000#32, 0x374B2FF5#32, 0x37214518#32, 0x37000000#32, 0x36CB2FF5#32] ++
  [0x36A14518#32, 0x36800000#32, 0x364B2FF5#32, 0x36214518#32, 0x36000000#32, 0x35CB2FF5#32, 0x35A14518#32] ++
  [0x00000000#32]

/-- `FACTOR`, the exact `2 / (2^n - 1)` with `n = a + 1`; entry 0 is 0 and unused (spec/20_memory.md R94). -/
def factorTable : Vector Rat 15 :=
  #v[0, mkRat 2 3, mkRat 2 7, mkRat 2 15, mkRat 2 31, mkRat 2 63, mkRat 2 127, mkRat 2 255, mkRat 2 511, mkRat 2 1023,
    mkRat 2 2047, mkRat 2 4095, mkRat 2 8191, mkRat 2 16383, mkRat 2 32767]

/-- `OFFSET`, the exact `(2 - 2^n) / (2^n - 1)`; entry 0 is 0 and unused (spec/20_memory.md R94). -/
def offsetTable : Vector Rat 15 :=
  #v[0, mkRat (-2) 3, mkRat (-6) 7, mkRat (-14) 15, mkRat (-30) 31, mkRat (-62) 63, mkRat (-126) 127, mkRat (-254) 255,
    mkRat (-510) 511, mkRat (-1022) 1023, mkRat (-2046) 2047, mkRat (-4094) 4095, mkRat (-8190) 8191,
    mkRat (-16382) 16383, mkRat (-32766) 32767]

/-- The checksum's parameters (spec/43_crc.md R261). -/
def crcDefault : CrcParams where
  poly := 0x8005#16
  init := 0xFFFF#16
  reflectIn := false
  reflectOut := false
  xorOut := 0x0000#16

/-! ### Reads of the tables (spec/20_memory.md R90) -/

/-- The 11 sync bits of a header word (spec/30_encoding.md R112); not a parameter (spec/00_scope.md R5). -/
def syncMask : Word := 0xFFE00000#32

/-- `BITRATE[v][l][i]` in bits per second (spec/20_memory.md R91). -/
def bitrate (p : Params) (v : Version) (l : Layer) (i : BitVec 4) : Nat := ((p.bitrate.get v).get l)[i.toNat]'i.isLt

/-- `FREQ[v][r]` in Hz (spec/20_memory.md R92). Index 3 is never formed (spec/41_header.md R195). -/
def freq (p : Params) (v : Version) (r : BitVec 2) : Nat := (p.freq.get v)[r.toNat]?.getD 0

/-- `S32[i] = rnd(SCALE[i])` (spec/20_memory.md R93, spec/45_samples_sink.md R306). -/
def scale (p : Params) (i : BitVec 6) : Sample := p.scale[i.toNat]'i.isLt

/-- `F32[a] = rnd(FACTOR[a])` (spec/20_memory.md R94, spec/45_samples_sink.md R306). Code 15 is never used
(spec/44_alloc_scf.md R273). -/
def factor (p : Params) (a : BitVec 4) : Sample := rnd p.format false (p.factor[a.toNat]?.getD 0)

/-- `O32[a] = rnd(OFFSET[a])` (spec/20_memory.md R94, spec/45_samples_sink.md R306). -/
def offset (p : Params) (a : BitVec 4) : Sample := rnd p.format false (p.offset[a.toNat]?.getD 0)

end Sys2Proof.Machine

namespace Sys2Proof

open Machine

/-- R6's values of the parameters (`LOCK_MASK` is spec/40_sync.md R164's; `FRAME_BUF_CAP` log 13). -/
def Config.defaultParams : Params where
  bitrate := bitrateTable
  freq := freqTable
  scale := ⟨⟨scaleTable.map single⟩, rfl⟩
  factor := factorTable
  offset := offsetTable
  crc := crcDefault
  format := .binary binary32
  lockMask := 0xFFFF0DC3#32
  resyncAdvance := 4
  strictValidate := .lookahead
  xingFlags := .standard
  frameBufCap := 1725
  subbandsL23 := .rule203

end Sys2Proof
end

