-- ==== Sys2Proof/Machine/State.lean ====
section
/-! DEFINITION. The state of the block and of the far side of its ports, as plain data (spec/10_state.md), the
reasons a step can stop, and the state after reset. -/

namespace Sys2Proof.Machine

open Sys2Proof

/-- The kinds of `Unsupported` (spec/60_exceptions.md R370). -/
inductive UnsupportedKind where
  | badVersion
  | reservedLayer
  | reservedSampleRate
  deriving DecidableEq, Repr

/-- The kinds of `Refused` (spec/60_exceptions.md R370). -/
inductive RefusedKind where
  | badBitrateIndex
  | layerNotDecoded
  | halted
  deriving DecidableEq, Repr

/-- The exceptions with what they record in `LAST` (spec/60_exceptions.md R370). -/
inductive Exc where
  | lostSync
  | unsupported (k : UnsupportedKind)
  | illegalAllocation (sb : Nat) (ch : Chan)
  | vbrHeaderCorrupt
  | ioFailure
  | frameOverrun
  | refused (k : RefusedKind)
  deriving DecidableEq, Repr

/-- `LAST`, the outcome of the most recent command (spec/46_frame_loop_host.md R340). -/
inductive Last where
  | none
  | ok
  | frameDone
  | exc (e : Exc)
  deriving DecidableEq, Repr

/-- The VBR registers (spec/10_state.md R27); `none` is "unknown". -/
structure VbrRegs where
  isVbr : Bool
  frames : Option Word
  bytes : Option Word
  scale : Option Word
  toc : Option (List Byte)
  deriving DecidableEq, Repr

/-- The decoded header fields (spec/10_state.md R33). -/
structure HeaderRegs where
  version : Option Version
  layer : Option Layer
  prot : Option Bool
  bitrateIndex : Option (BitVec 4)
  srIndex : Option (BitVec 2)
  padding : Option Bool
  mode : Option Mode
  modeExt : Option (BitVec 2)
  copyright : Option Bool
  original : Option Bool
  deriving DecidableEq, Repr

/-- The derived geometry (spec/10_state.md R34). -/
structure Geometry where
  subbandCount : Option Nat
  bound : Option Nat
  frameSize : Option Nat
  slotCount : Option Int
  deriving DecidableEq, Repr

/-- One entry of the subband register file (spec/10_state.md R38). -/
structure SubbandRegs where
  variant : Option Variant
  alloc1 : Option (BitVec 4)
  alloc2 : Option (BitVec 4)
  scf1 : Option (BitVec 6)
  scf2 : Option (BitVec 6)
  raw1 : Option (BitVec 15)
  raw2 : Option (BitVec 15)
  deriving DecidableEq, Repr

/-- STREAM (spec/20_memory.md R70, R74): its listed bytes in canonical form and its length `END`; with no length the
stream is endless (spec/40_sync.md R160). -/
structure Stream where
  cells : List Host.Cell
  len : Option Nat
  deriving DecidableEq, Repr

/-- The answers of `RD.Sync` (spec/20_memory.md R75). -/
inductive SyncAnswer where
  | word (w : Word)
  | endOfStream
  | ioError
  deriving DecidableEq, Repr

/-- The answers of `RD.ReadFrame` (spec/20_memory.md R76). -/
inductive FrameAnswer where
  | count (k : Nat)
  | ioError
  deriving DecidableEq, Repr

/-- The answers of `RD.PeekSync` (spec/20_memory.md R79). -/
inductive PeekAnswer where
  | atEnd
  | short
  | isMatch
  | noMatch
  deriving DecidableEq, Repr

/-- The event history: port transactions (spec/20_memory.md R100) and recoverable events
(spec/60_exceptions.md R379). -/
inductive Event where
  | rdSync (a : SyncAnswer)
  | rdReadFrame (n : Nat) (a : FrameAnswer)
  | rdPeekSync (a : PeekAnswer)
  | rdUnread
  | rdClose
  | getBits (n : Nat)
  | skInput (k : SinkId) (sb : Nat) (v : Sample)
  | skFlush (k : SinkId)
  | frameSizeMismatch
  | strictSyncMismatch
  | checksumMismatch
  deriving DecidableEq, Repr

/-- What the host does between commands: the three commands (spec/46_frame_loop_host.md R340), attaching a stream
with the reader at an offset (spec/70_reset_and_hazards.md R411), moving the reader (R423). The last two are the
model's form of host duties (log 3). -/
inductive HostAction where
  | reset
  | setChannels (c : ChSel)
  | decodeFrame
  | attach (bytes : List Byte) (endless : Bool) (pos : Nat)
  | moveReader (pos : Nat)
  deriving DecidableEq, Repr

/-- The state. Fields in the order of spec/10_state.md, then the far side of the ports, then the model's own. -/
structure State where
  /-- `SYNC_MODE` (R24) -/
  syncMode : SyncMode
  /-- `LOCK` (R25) -/
  lock : Option Word
  /-- `FIRST` (R26) -/
  first : Bool
  /-- `IS_VBR`, `VBR_*` (R27) -/
  vbr : VbrRegs
  /-- `CHSEL` (R28) -/
  chsel : ChSel
  /-- `TOP` (R29) -/
  top : Top
  /-- `PHASE` (R30) -/
  phase : Phase
  /-- `FAULTS`, bit number = exception code (R31) -/
  faults : BitVec 8
  /-- `LAST` (R31) -/
  last : Last
  /-- `H` (R32) -/
  h : Option Word
  /-- the decoded fields (R33) -/
  hdr : HeaderRegs
  /-- the derived geometry (R34) -/
  geo : Geometry
  /-- `FB`; `FB_LEN` is its length (R35) -/
  fb : List Byte
  /-- `BITPOS` (R35) -/
  bitpos : Nat
  /-- `CRC_ATTACHED` (R36) -/
  crcAttached : Bool
  /-- `CRC_FIELD` (R36) -/
  crcField : Option (BitVec 16)
  /-- `CRC_ACC` (R36) -/
  crcAcc : Option (BitVec 16)
  /-- `GATE_OK` (R37) -/
  gateOk : Option Bool
  /-- `SB[0..31]` (R38) -/
  sb : Vector SubbandRegs 32
  /-- `SBI` (R40) -/
  sbi : Nat
  /-- `REP` (R40) -/
  rep : Nat
  /-- the channel of the program counter (R41; log 6) -/
  chan : Chan
  /-- STREAM and `END` (spec/20_memory.md R70, R74) -/
  stream : Stream
  /-- `POS` (spec/20_memory.md R74) -/
  pos : Nat
  /-- for each coming `RD.Sync` or `RD.ReadFrame`: does the byte source fail (spec/20_memory.md R82; log 11) -/
  io : List Bool
  /-- inputs of sink 1 since its last flush (spec/20_memory.md R84, R87; log 21) -/
  bank1 : Vector (Option Sample) 32
  /-- inputs of sink 2 since its last flush -/
  bank2 : Vector (Option Sample) 32
  /-- the command's event history, oldest first (spec/20_memory.md R100; log 9) -/
  hist : List Event
  /-- the host's pending actions, oldest first (log 2) -/
  host : List HostAction
  /-- the model's own: where inside `P_VBR` (log 7) -/
  probe : Probe
  /-- the parameters, fixed for a machine (spec/00_scope.md R6; log 15) -/
  par : Params
  /-- the model's own: the counter free values are taken at (log 11) -/
  fresh : Nat
  deriving DecidableEq, Repr

/-- The registers that can hold "none", for `Fault.readNone`. -/
inductive Reg where
  | lock
  | h
  | version
  | layer
  | prot
  | mode
  | subbandCount
  | bound
  | frameSize
  | crcField
  | crcAcc
  | gateOk
  | variant
  | alloc
  | scf
  | raw
  deriving DecidableEq, Repr

/-- Why the machine stops. These are model faults; the block's own exceptions are next states. -/
inductive Fault where
  /-- A rule reads a register that holds "none" (spec/10_state.md R23, decision D13). Raised by every reader of such a
  register. Safe: no run from reset meets it. -/
  | readNone (r : Reg)
  /-- A subband index outside `SB[0..31]` (spec/10_state.md R38). Raised by every reader of the register file. Safe:
  `SBI` is below `SUBBAND_COUNT`, at most 32. -/
  | noSuchSubband (i : Nat)
  /-- `RD.Sync` never answers on an endless stream with no matching word (spec/40_sync.md R160,
  spec/93_implementation_defined.md U23 "stuck"). Raised by the search. Safe. -/
  | syncNeverAnswers
  /-- `RD.ReadFrame(n)` with `n > FRAME_BUF_CAP`, against its requirement (spec/20_memory.md R76). Raised by the body
  read. Safe: no frame size of the tables exceeds it. -/
  | frameBufferExceeded (n : Nat)
  deriving DecidableEq, Repr

/-- Why there is no meaning. -/
inductive Refusal where
  /-- An element without a meaning: raised by an arm of `exec` only. Safe. No arm does. -/
  | notModelled (mnemonic : String)
  /-- The decoder rejects the bits: raised by the fetch. Safe: `H` always holds a word the search matched. -/
  | undecodable (why : Reject)
  deriving DecidableEq, Repr

/-- A subband entry with every field "none" (spec/10_state.md R39). -/
def SubbandRegs.blank : SubbandRegs where
  variant := none
  alloc1 := none
  alloc2 := none
  scf1 := none
  scf2 := none
  raw1 := none
  raw2 := none

/-- Every header field "none" (spec/10_state.md R45). -/
def HeaderRegs.blank : HeaderRegs where
  version := none
  layer := none
  prot := none
  bitrateIndex := none
  srIndex := none
  padding := none
  mode := none
  modeExt := none
  copyright := none
  original := none

/-- Every geometry register "none" (spec/10_state.md R45). -/
def Geometry.blank : Geometry where
  subbandCount := none
  bound := none
  frameSize := none
  slotCount := none

/-- No VBR data (spec/10_state.md R45). -/
def VbrRegs.unknown : VbrRegs where
  isVbr := false
  frames := none
  bytes := none
  scale := none
  toc := none

/-- The state after reset: the table of spec/10_state.md R45; the far side of the ports as log 5 names it. -/
def State.reset : State where
  syncMode := .initialSync
  lock := none
  first := true
  vbr := VbrRegs.unknown
  chsel := .both
  top := .idle
  phase := .sync
  faults := 0#8
  last := .none
  h := none
  hdr := HeaderRegs.blank
  geo := Geometry.blank
  fb := []
  bitpos := 0
  crcAttached := false
  crcField := none
  crcAcc := none
  gateOk := none
  sb := Vector.replicate 32 SubbandRegs.blank
  sbi := 0
  rep := 0
  chan := .ch1
  stream := { cells := [], len := some 0 }
  pos := 0
  io := []
  bank1 := Vector.replicate 32 none
  bank2 := Vector.replicate 32 none
  hist := []
  host := []
  probe := .start
  par := Config.defaultParams
  fresh := 0

end Sys2Proof.Machine
end

