-- ==== Sys2Proof/Machine/Ops.lean ====
section
/-! DEFINITION. The named operations over the state: stream memory, the reader's transactions, the frame buffer,
the subband register file, the sinks, and taking an exception. -/

namespace Sys2Proof.Machine

open Sys2Proof

/-- The outcome of a step. -/
abbrev Result := Host.Outcome State Fault Refusal

/-- Reads a register that may hold "none": a model fault where it does (spec/10_state.md R23). -/
def require {α : Type} (r : Reg) (o : Option α) (k : α → Result) : Result :=
  match o with
  | some a => k a
  | none => .fault (.readNone r)

/-! ### Stream memory -/

/-- What an offset below `END` reads as where no cell lists it (log 4). -/
def unlistedByte : Byte := 0#8

/-- The byte at a stream offset. -/
def memRead : List Host.Cell → Nat → Byte
  | [], _ => unlistedByte
  | (b, v) :: rest, a => if a = b then v else memRead rest a

/-- Writes one byte and keeps the canonical form: writing the unlisted value removes the cell. Only the outside of
the block writes STREAM (spec/20_memory.md R70). -/
def memWrite : List Host.Cell → Nat → Byte → List Host.Cell
  | [], a, v => if v = unlistedByte then [] else [(a, v)]
  | (b, w) :: rest, a, v =>
    if a < b then if v = unlistedByte then (b, w) :: rest else (a, v) :: (b, w) :: rest
    else if a = b then if v = unlistedByte then rest else (a, v) :: rest
    else (b, w) :: memWrite rest a v

/-- The canonical form: offsets strictly rising, no cell equal to the unlisted byte. -/
def memWf : List Host.Cell → Bool
  | [] => true
  | (a, v) :: rest => v != unlistedByte && rest.all (fun c => decide (a < c.1)) && memWf rest

/-- The cells of a byte string that begins at offset `a`. -/
def memOfBytes : List Byte → Nat → List Host.Cell
  | [], _ => []
  | v :: rest, a => memWrite (memOfBytes rest (a + 1)) a v

/-- The highest listed offset, 0 where there is none. -/
def memTop (cells : List Host.Cell) : Nat := cells.foldl (fun m c => max m c.1) 0

/-- The stream of a byte string; an endless one goes on with the unlisted byte (spec/70_reset_and_hazards.md R411). -/
def streamOfBytes (bytes : List Byte) (endless : Bool) : Stream where
  cells := memOfBytes bytes 0
  len := if endless then none else some bytes.length

/-- `STREAM[p] ++ STREAM[p+1] ++ STREAM[p+2] ++ STREAM[p+3]` (spec/20_memory.md R75, R96). -/
def streamWord (st : Stream) (p : Nat) : Word :=
  wordOfBytes (memRead st.cells p) (memRead st.cells (p + 1)) (memRead st.cells (p + 2)) (memRead st.cells (p + 3))

/-- `END - p`; none where the stream is endless. -/
def bytesLeft (st : Stream) (p : Nat) : Option Nat := st.len.map (· - p)

/-! ### The event history -/

/-- Appends one event to the command's history (spec/20_memory.md R100, spec/60_exceptions.md R379). -/
def logEvent (e : Event) (s : State) : State := { s with hist := s.hist ++ [e] }

/-! ### The synchronizer's predicate -/

/-- `SyncPred(mode, lock, w)` with `LOCK_MASK` `mask` (spec/40_sync.md R161, R162). -/
def syncPred (mask : Word) (mode : SyncMode) (lock w : Word) : Bool :=
  match mode with
  | .initialSync => w &&& syncMask == syncMask
  | .strictSync => w &&& mask == lock

/-! ### The reader's transactions -/

/-- How a search ends: a word with its offset, the end of the stream, or never (spec/20_memory.md R75,
spec/40_sync.md R160). -/
inductive Scan where
  | found (p : Nat) (w : Word)
  | endOfStream
  | never
  deriving DecidableEq, Repr

/-- The loop of `RD.Sync` from offset `p` (spec/20_memory.md R75), at most `fuel` offsets. -/
def scanFrom (mask : Word) (st : Stream) (mode : SyncMode) (lock : Word) : (fuel : Nat) → (p : Nat) → Scan
  | 0, _ => .never
  | fuel + 1, p =>
    if ((bytesLeft st p).any (· < 4)) then .endOfStream
    else if syncPred mask mode lock (streamWord st p) then .found p (streamWord st p)
    else scanFrom mask st mode lock fuel (p + 1)

/-- How many offsets decide a search: to the end of the stream, or on an endless stream to the first offset beyond
every listed byte, from where on every word is the same. -/
def scanFuel (st : Stream) (p : Nat) : Nat :=
  match st.len with
  | some e => e - p + 1
  | none => memTop st.cells + 1 - p + 1

/-- Does the byte source fail the coming transaction (spec/20_memory.md R82; log 11)? -/
def ioFails (s : State) : Bool := s.io.headD false

/-- The byte source has failed: the reader's position is unspecified from here on (spec/60_exceptions.md R377), a
free value. -/
def failIo (s : State) : State :=
  { s with io := s.io.tail, pos := Config.posAfterIoFailure s.fresh, fresh := s.fresh + 1 }

/-- `RD.Sync(mode, lock)` (spec/20_memory.md R75); none where it never answers. -/
def rdSync (mode : SyncMode) (lock : Word) (s : State) : Option (SyncAnswer × State) :=
  if ioFails s then some (.ioError, logEvent (.rdSync .ioError) (failIo s))
  else
    match scanFrom s.par.lockMask s.stream mode lock (scanFuel s.stream s.pos) s.pos with
    | .found p w => some (.word w, logEvent (.rdSync (.word w)) { s with io := s.io.tail, pos := p + 4 })
    | .endOfStream =>
      some (.endOfStream,
        logEvent (.rdSync .endOfStream) { s with io := s.io.tail, pos := s.stream.len.getD s.pos })
    | .never => none

/-- The bytes `STREAM[p .. p+k-1]`. -/
def streamBytes (st : Stream) (p k : Nat) : List Byte := (List.range k).map fun j => memRead st.cells (p + j)

/-- The number of bytes `RD.ReadFrame(n)` can read: `min(n, END - POS)` (spec/20_memory.md R76). -/
def frameCount (st : Stream) (p n : Nat) : Nat :=
  match bytesLeft st p with
  | some left => min n left
  | none => n

/-- `RD.ReadFrame(n)` (spec/20_memory.md R76). -/
def rdReadFrame (n : Nat) (s : State) : FrameAnswer × State :=
  if ioFails s then (.ioError, logEvent (.rdReadFrame n .ioError) (failIo s))
  else
    let k := frameCount s.stream s.pos n
    (.count k,
      logEvent (.rdReadFrame n (.count k))
        { s with io := s.io.tail, fb := streamBytes s.stream s.pos k, bitpos := 0, pos := s.pos + k })

/-- The answer of `RD.PeekSync(mode, lock)` (spec/20_memory.md R79). -/
def peekAnswer (mode : SyncMode) (lock : Word) (s : State) : PeekAnswer :=
  let word := if syncPred s.par.lockMask mode lock (streamWord s.stream s.pos) then PeekAnswer.isMatch else .noMatch
  match bytesLeft s.stream s.pos with
  | some left => if left = 0 then .atEnd else if left < 4 then .short else word
  | none => word

/-- `RD.Unread()` (spec/20_memory.md R80): scanning resumes `RESYNC_ADVANCE` bytes after the candidate's first byte,
which lies `FB_LEN + 4` bytes before `POS`. -/
def rdUnread (s : State) : State :=
  logEvent .rdUnread { s with pos := s.pos + s.par.resyncAdvance - s.fb.length - 4, fb := [] }

/-- `RD.Close()` (spec/20_memory.md R81). -/
def rdClose (s : State) : State := logEvent .rdClose { s with fb := [] }

/-! ### The frame buffer -/

/-- `GetBits(n)` (spec/20_memory.md R77); none where it would pass the end of the buffer (R83), with nothing
changed. -/
def getBits (n : Nat) (s : State) : Option (BitVec n × State) :=
  if 8 * s.fb.length < s.bitpos + n then none
  else some (bitsAt s.fb s.bitpos n, logEvent (.getBits n) { s with bitpos := s.bitpos + n })

/-- `FB[k]` (spec/20_memory.md R78). Every reader tests `k < FB_LEN` first. -/
def fbByte (s : State) (k : Nat) : Byte := s.fb.getD k 0#8

/-- `BE32(o)` (spec/42_vbr.md R247). -/
def be32 (s : State) (o : Nat) : Word :=
  wordOfBytes (fbByte s o) (fbByte s (o + 1)) (fbByte s (o + 2)) (fbByte s (o + 3))

/-! ### The subband register file -/

/-- Every entry "none" (spec/10_state.md R39). -/
def blankSubbands : Vector SubbandRegs 32 := Vector.replicate 32 SubbandRegs.blank

/-- Reads `SB[i]`. -/
def withSubband (i : Nat) (s : State) (k : SubbandRegs → Result) : Result :=
  match s.sb[i]? with
  | some e => k e
  | none => .fault (.noSuchSubband i)

/-- Writes `SB[i]`. -/
def setSubband (i : Nat) (e : SubbandRegs) (s : State) : State := { s with sb := s.sb.setIfInBounds i e }

/-! ### The sinks -/

/-- No input since the last flush. -/
def emptyBank : Vector (Option Sample) 32 := Vector.replicate 32 none

/-- `SK[k].Input(sb, v)` (spec/20_memory.md R85). -/
def skInput (k : SinkId) (sb : Nat) (v : Sample) (s : State) : State :=
  match k with
  | .sk1 => logEvent (.skInput .sk1 sb v) { s with bank1 := s.bank1.setIfInBounds sb (some v) }
  | .sk2 => logEvent (.skInput .sk2 sb v) { s with bank2 := s.bank2.setIfInBounds sb (some v) }

/-- `SK[k].Flush()` (spec/20_memory.md R86): the flush vector is what the bank holds (R87), and the next one starts
empty. -/
def skFlush (k : SinkId) (s : State) : State :=
  match k with
  | .sk1 => logEvent (.skFlush .sk1) { s with bank1 := emptyBank }
  | .sk2 => logEvent (.skFlush .sk2) { s with bank2 := emptyBank }

/-! ### Exceptions -/

/-- The code of an exception, its bit number in `FAULTS` (spec/60_exceptions.md R370). -/
def excCode : Exc → Nat
  | .lostSync => 1
  | .unsupported _ => 2
  | .illegalAllocation _ _ => 3
  | .vbrHeaderCorrupt => 4
  | .ioFailure => 5
  | .frameOverrun => 6
  | .refused _ => 7

/-- The sub-kind number of an exception that has one (spec/60_exceptions.md R370). -/
def excKind : Exc → Option Nat
  | .unsupported .badVersion => some 1
  | .unsupported .reservedLayer => some 2
  | .unsupported .reservedSampleRate => some 3
  | .refused .badBitrateIndex => some 1
  | .refused .layerNotDecoded => some 2
  | .refused .halted => some 3
  | _ => none

/-- `TOP` after an exception (spec/60_exceptions.md R370, spec/46_frame_loop_host.md R349). -/
def excTop : Exc → Top
  | .illegalAllocation _ _ => .idle
  | .frameOverrun => .idle
  | _ => .halted

/-- `FAULTS` with the exception's sticky bit; `Refused(Halted)` sets none (spec/60_exceptions.md R371). -/
def addFault (e : Exc) (f : BitVec 8) : BitVec 8 :=
  if e = .refused .halted then f else f ||| (1#8 <<< excCode e)

/-- `RD.Close()` where a body was read (spec/60_exceptions.md R371). -/
def closeIfRead (s : State) : State := if 0 < s.fb.length then rdClose s else s

/-- `raise E` (spec/60_exceptions.md R371): taking an exception ends the command. There is no handler and no saved
program counter (R382). -/
def raise (e : Exc) (s : State) : State :=
  { closeIfRead s with
    sb := blankSubbands
    faults := addFault e s.faults
    last := .exc e
    top := excTop e }

/-- The return from an exception: there is no return instruction (spec/60_exceptions.md R384). After an exception
that leaves `IDLE` the next `DECODE_FRAME` starts here, at `P_SYNC` from the reader's position, with every
frame-scoped register at its reset value (spec/46_frame_loop_host.md R343). -/
def startFrame (s : State) : State :=
  { s with
    top := .busy
    phase := .sync
    h := none
    hdr := HeaderRegs.blank
    geo := Geometry.blank
    fb := []
    bitpos := 0
    crcAttached := false
    crcField := none
    crcAcc := none
    gateOk := none
    sb := blankSubbands
    sbi := 0
    rep := 0
    chan := .ch1
    bank1 := emptyBank
    bank2 := emptyBank
    hist := []
    probe := .start }

/-! ### The sequencer's counters -/

/-- The next read of a field loop: channel 2 of the subband where it has a second read, else the next subband
(spec/44_alloc_scf.md R272, R277, R280). -/
def nextSlot (second : Bool) (s : State) : State :=
  if s.chan = .ch1 ∧ second = true then { s with chan := .ch2 }
  else { s with chan := .ch1, sbi := s.sbi + 1 }

end Sys2Proof.Machine
end

