-- ==== Sys2Proof/Machine/Operands.lean ====
section
/-! DEFINITION. What the elements' fields stand for: header fields, sample lengths, the dequantizer, the probe's
offset and masks, and the registers an element's channel selects. -/

namespace Sys2Proof.Machine

open Sys2Proof

/-! ### Header fields -/

/-- `VERSION` from `H[20:19]` (spec/30_encoding.md R113, spec/41_header.md R191); none is `BadVersion`. -/
def versionOf (v : BitVec 2) : Option Version :=
  if v = 0b11#2 then some .mpeg1
  else if v = 0b10#2 then some .mpeg2Lsf
  else if v = 0b00#2 then some .mpeg25Lsf
  else none

/-- `LAYER` from `H[18:17]`: `(4 - raw) & 3` (spec/30_encoding.md R114, spec/41_header.md R192); none is
`ReservedLayer`. -/
def layerOf (l : BitVec 2) : Option Layer :=
  match (4 - l.toNat) % 4 with
  | 1 => some .one
  | 2 => some .two
  | 3 => some .three
  | _ => none

/-- `MODE` from `H[7:6]` (spec/30_encoding.md R115). -/
def modeOf (m : BitVec 2) : Mode :=
  match m.toNat with
  | 0 => .stereo
  | 1 => .jointStereo
  | 2 => .dualChannel
  | _ => .singleChannel

/-- A one-bit field as a boolean. -/
def bit (b : BitVec 1) : Bool := b == 1#1

/-! ### Geometry -/

/-- The channel-adjusted bitrate index `cb` (spec/41_header.md R203); it may be negative. -/
def adjustedIndex (m : Mode) (br : Nat) : Int :=
  if m = .singleChannel then br
  else if br = 4 then 1
  else (br : Int) - 4

/-- The value of `SUBBANDS_L23` that spec/41_header.md R203 prints. -/
def subbandsRule (m : Mode) (br sr : Nat) : Nat :=
  let cb := adjustedIndex m br
  if cb = 1 ∨ cb = 2 then
    if sr = 2 then 12 else 8
  else if sr = 1 ∨ (3 ≤ cb ∧ cb ≤ 5) then 27
  else 30

/-- The header bits of a version: the inverse of `versionOf` (spec/30_encoding.md R113). -/
def versionBitsOf : Version → BitVec 2
  | .mpeg1 => 0b11#2
  | .mpeg2Lsf => 0b10#2
  | .mpeg25Lsf => 0b00#2

/-- The header bits of a layer: the inverse of `layerOf` (spec/30_encoding.md R114). -/
def layerBitsOf : Layer → BitVec 2
  | .one => 0b11#2
  | .two => 0b10#2
  | .three => 0b01#2

/-- `SUBBANDS_L23(h)` of the header word with these fields (spec/00_scope.md R6, spec/41_header.md R203). -/
def subbandsL23 (p : Params) (v : Version) (l : Layer) (t : HdrTail) : Nat :=
  match p.subbandsL23 with
  | .rule203 => subbandsRule (modeOf t.channelMode) t.bitrateIndex.toNat t.sampleRateIndex.toNat
  | .table rows otherwise =>
    let h := encodeHeader (versionBitsOf v) (layerBitsOf l) t
    ((rows.find? fun row => h &&& row.mask == row.bits).map SubbandRow.count).getD otherwise

/-- `SUBBAND_COUNT` (spec/41_header.md R201, R203). -/
def subbandCountOf (p : Params) (v : Version) (l : Layer) (t : HdrTail) : Nat :=
  match l with
  | .one => 32
  | .two => subbandsL23 p v .two t
  | .three => subbandsL23 p v .three t

/-- `BOUND` (spec/41_header.md R204). -/
def boundOf (m : Mode) (ext : BitVec 2) (n : Nat) : Nat :=
  if m = .jointStereo then min (4 + 4 * ext.toNat) n else 0

/-- Is it one of the two low-sampling-frequency versions? -/
def isLsf (v : Version) : Bool := v != .mpeg1

/-- The frame length with its header, in bytes: `s` after the shift of spec/41_header.md R205, `FULL` of R206. -/
def fullSizeOf (p : Params) (v : Version) (l : Layer) (br : BitVec 4) (sr : BitVec 2) (pad : Bool) : Nat :=
  match l with
  | .one => ((12 * bitrate p v .one br) / freq p v sr + (if pad then 1 else 0)) * 4
  | _ =>
    let s := (144 * bitrate p v l br) / freq p v sr
    (if isLsf v then s / 2 else s) + (if pad then 1 else 0)

/-- `FRAME_SIZE`, header excluded (spec/41_header.md R205, R206). DESIGN CHOICE, log 31: where configured rates give a
frame length below 4, it is 0; the formulas' value is then negative, and R226 has no negative size. -/
def frameSizeOf (p : Params) (v : Version) (l : Layer) (br : BitVec 4) (sr : BitVec 2) (pad : Bool) : Nat :=
  fullSizeOf p v l br sr pad - 4

/-- The side-information size of spec/41_header.md R207, which is also the Xing offset (spec/42_vbr.md R242). -/
def sideInfoSize (v : Version) (m : Mode) : Nat :=
  match v, m with
  | .mpeg1, .singleChannel => 17
  | .mpeg1, _ => 32
  | _, .singleChannel => 9
  | _, _ => 17

/-- `SLOT_COUNT` (spec/41_header.md R205, R207); it may be negative. -/
def slotCountOf (p : Params) (v : Version) (l : Layer) (br : BitVec 4) (sr : BitVec 2) (pad : Bool) (m : Mode) (prot : Bool) :
    Int :=
  match l with
  | .three =>
    (fullSizeOf p v .three br sr pad : Int) - sideInfoSize v m - (if prot then 2 else 0) - 4
  | _ => 0

/-! ### Channels of a subband -/

/-- Does the variant have a second allocation and sample read (spec/30_encoding.md R120)? -/
def secondAlloc (v : Variant) : Bool := v == .stereo

/-- Does the variant have a second scale-factor index (spec/30_encoding.md R120)? -/
def secondScf (v : Variant) : Bool := v != .mono

/-- The allocation code that governs a channel: the shared one for `Mono` and `ISX` (spec/10_state.md R38). -/
def allocFor (v : Variant) (c : Chan) (e : SubbandRegs) : Option (BitVec 4) :=
  match v, c with
  | .stereo, .ch2 => e.alloc2
  | _, _ => e.alloc1

/-- Stores an allocation code for a channel. -/
def putAlloc (c : Chan) (a : BitVec 4) (e : SubbandRegs) : SubbandRegs :=
  match c with
  | .ch1 => { e with alloc1 := some a }
  | .ch2 => { e with alloc2 := some a }

/-- Stores a scale-factor index for a channel. -/
def putScf (c : Chan) (i : BitVec 6) (e : SubbandRegs) : SubbandRegs :=
  match c with
  | .ch1 => { e with scf1 := some i }
  | .ch2 => { e with scf2 := some i }

/-- Stores a raw sample code for a channel. -/
def putRaw (c : Chan) (r : BitVec 15) (e : SubbandRegs) : SubbandRegs :=
  match c with
  | .ch1 => { e with raw1 := some r }
  | .ch2 => { e with raw2 := some r }

/-- `sample_length = alloc + 1` (spec/30_encoding.md R123). -/
def sampleLength (a : BitVec 4) : Nat := a.toNat + 1

/-- Bits one code asks for in a repetition: its sample length where it is signalled, else none
(spec/45_samples_sink.md R318). -/
def codeBits (a : BitVec 4) : Nat := if a = 0#4 then 0 else sampleLength a

/-- Bits one subband asks for in a repetition (spec/45_samples_sink.md R318); none where a code it needs has not been
read. -/
def subbandBits (e : SubbandRegs) : Option Nat :=
  match e.variant with
  | some .stereo =>
    match e.alloc1, e.alloc2 with
    | some a, some b => some (codeBits a + codeBits b)
    | _, _ => none
  | some _ => e.alloc1.map codeBits
  | none => none

/-- `W`: bits the first `n` subbands ask for in a repetition (spec/45_samples_sink.md R318). -/
def totalBits (sb : Vector SubbandRegs 32) : Nat → Option Nat
  | 0 => some 0
  | n + 1 =>
    match totalBits sb n, (sb[n]?).bind subbandBits with
    | some w, some b => some (w + b)
    | _, _ => none

/-! ### The dequantizer -/

/-- `DEQ(raw, a) = rnd(rnd(raw * F32[a]) + O32[a])` (spec/45_samples_sink.md R306); `raw` is exact. -/
def deq (p : Params) (raw : BitVec 15) (a : BitVec 4) : Sample :=
  sampleAdd p.format (sampleMul p.format (.number raw.toNat) (factor p a)) (offset p a)

/-- `SCL(x, i) = rnd(x * S32[i])` (spec/45_samples_sink.md R306). -/
def scl (p : Params) (x : Sample) (i : BitVec 6) : Sample := sampleMul p.format x (scale p i)

/-! ### The metadata probe -/

/-- The Xing offset `x` (spec/42_vbr.md R242). -/
def xingOffset (v : Version) (m : Mode) : Nat := sideInfoSize v m

/-- The VBRI offset (spec/42_vbr.md R248). -/
def vbriOffset : Nat := 32

/-- The four masks `XF_FRAMES`, `XF_BYTES`, `XF_TOC`, `XF_SCALE` (spec/42_vbr.md R246). -/
def xingMasks : XingFlags → Byte × Byte × Byte × Byte
  | .standard => (0x01#8, 0x02#8, 0x04#8, 0x08#8)
  | .d0Literal => (0x01#8, 0x02#8, 0x08#8, 0x04#8)

end Sys2Proof.Machine
end

