-- ==== Sys2Proof/Machine/Flags.lean ====
section
/-! DEFINITION. The checksum validator and the block's flags (spec/43_crc.md, spec/10_state.md R42). -/

namespace Sys2Proof.Machine

open Sys2Proof

/-! ### The checksum -/

/-- One bit of `CRC.ADD` with the generator `poly` (spec/43_crc.md R264). -/
def crcBit (poly acc : BitVec 16) (b : Bool) : BitVec 16 :=
  if (acc.getLsbD 15).xor b then (acc <<< 1) ^^^ poly else acc <<< 1

/-- The loop of `CRC.ADD`: the `n` low bits of `v`, most significant first (spec/43_crc.md R264). -/
def crcLoop (poly acc : BitVec 16) (v : Nat) : (n : Nat) → BitVec 16
  | 0 => acc
  | n + 1 => crcLoop poly (crcBit poly acc (v.testBit n)) v n

/-- The `n` low bits of `v` in the opposite order. -/
def reflectBits (v : Nat) : (n : Nat) → Nat
  | 0 => 0
  | n + 1 => v % 2 * 2 ^ n + reflectBits (v / 2) n

/-- `CRC.ADD(v, n)` (spec/43_crc.md R264), with the feeding order of the parameters (R261). -/
def crcAdd (c : CrcParams) (acc : BitVec 16) (v n : Nat) : BitVec 16 :=
  crcLoop c.poly acc (if c.reflectIn then reflectBits v n else v) n

/-- `CRC.INIT` and the seed `CRC.ADD(H[15:0], 16)` (spec/43_crc.md R262, R263). -/
def crcSeed (c : CrcParams) (h : Word) : BitVec 16 := crcAdd c c.init (h.extractLsb' 0 16).toNat 16

/-- What `CRC.CHECK` compares with the field (spec/43_crc.md R265): the accumulator, with the reflection and the final
exclusive or of the parameters, both absent in R261's values. -/
def crcResult (c : CrcParams) (acc : BitVec 16) : BitVec 16 :=
  (if c.reflectOut then BitVec.ofNat 16 (reflectBits acc.toNat 16) else acc) ^^^ c.xorOut

/-- The fold of one allocation code where an accumulator is attached (spec/44_alloc_scf.md R274). -/
def foldAlloc (a : BitVec 4) (s : State) (k : State → Result) : Result :=
  if s.crcAttached then
    require .crcAcc s.crcAcc fun acc => k { s with crcAcc := some (crcAdd s.par.crc acc a.toNat 4) }
  else k s

/-! ### Signalled channels and enabled sinks -/

/-- A channel is signalled where the code that governs it is not 0 (spec/10_state.md R42). -/
def signalled (a : BitVec 4) : Bool := a != 0#4

/-- `S1_EN` (spec/45_samples_sink.md R303). -/
def s1En (c : ChSel) : Bool := c == .both || c == .left

/-- `S2_EN` (spec/45_samples_sink.md R303). -/
def s2En (c : ChSel) (m : Mode) : Bool := (c == .both || c == .right) && m != .singleChannel

/-! ### Codes of the named values, for a host that reads numbers -/

/-- The code of `SYNC_MODE` (spec/10_state.md R24). -/
def syncModeCode : SyncMode → BitVec 1
  | .initialSync => 0#1
  | .strictSync => 1#1

/-- The code of `CHSEL` (spec/10_state.md R28). -/
def chselCode : ChSel → BitVec 2
  | .both => 0#2
  | .left => 1#2
  | .right => 2#2

/-- The selector a code writes; code 3 is not writable (spec/10_state.md R28). -/
def chselOfCode (c : BitVec 2) : Option ChSel :=
  match c.toNat with
  | 0 => some .both
  | 1 => some .left
  | 2 => some .right
  | _ => none

end Sys2Proof.Machine
end

