-- ==== Sys2Proof/Machine/Commands.lean ====
section
/-! DEFINITION. The host commands and the host's other actions between commands (spec/46_frame_loop_host.md R340 to
R351, spec/70_reset_and_hazards.md R410 to R412), and what the host reads (spec/20_memory.md R88). -/

namespace Sys2Proof.Machine

open Sys2Proof

/-- `RESET` (spec/46_frame_loop_host.md R341, spec/70_reset_and_hazards.md R410): every register of the block at its
reset value; the reader, the sinks and the parameters are not the block's and stay. -/
def resetBlock (s : State) : State :=
  { State.reset with
    stream := s.stream
    pos := s.pos
    io := s.io
    bank1 := s.bank1
    bank2 := s.bank2
    host := s.host
    par := s.par
    fresh := s.fresh }

/-- A command given in `HALTED`: nothing but `LAST` changes (spec/46_frame_loop_host.md R348). -/
def refuseHalted (s : State) : State := { s with last := .exc (.refused .halted) }

/-- `SET_CHANNELS(c)` (spec/46_frame_loop_host.md R342). -/
def setChannels (c : ChSel) (s : State) : State :=
  if s.top = .idle then { s with chsel := c, last := .ok } else refuseHalted s

/-- The start of `DECODE_FRAME` (spec/46_frame_loop_host.md R343). -/
def decodeFrame (s : State) : State := if s.top = .idle then startFrame s else refuseHalted s

/-- The host attaches a reader to a byte source (spec/70_reset_and_hazards.md R411; log 3). -/
def attachStream (bytes : List Byte) (endless : Bool) (pos : Nat) (s : State) : State :=
  { s with stream := streamOfBytes bytes endless, pos := pos }

/-- The host moves the reader (spec/70_reset_and_hazards.md R423; log 3). -/
def moveReader (pos : Nat) (s : State) : State := { s with pos := pos }

/-- One host action. -/
def hostAction (a : HostAction) (s : State) : State :=
  match a with
  | .reset => resetBlock s
  | .setChannels c => setChannels c s
  | .decodeFrame => decodeFrame s
  | .attach bytes endless pos => attachStream bytes endless pos s
  | .moveReader pos => moveReader pos s

/-- What happens while no command runs: the host's next action, or waiting (spec/70_reset_and_hazards.md R410). -/
def hostStep (s : State) : State :=
  match s.host with
  | [] => s
  | a :: rest => hostAction a { s with host := rest }

/-- What the host can read while `TOP` is not `BUSY`: the outcome and the VBR registers (spec/20_memory.md R88), the
Header, which counts the checksum field and its attachment (spec/41_header.md R211), the gate
(spec/46_frame_loop_host.md R345), and what an exception leaves for inspection (spec/60_exceptions.md R371). -/
structure HostView where
  last : Last
  faults : BitVec 8
  h : Option Word
  hdr : HeaderRegs
  geo : Geometry
  vbr : VbrRegs
  crcAttached : Bool
  crcField : Option (BitVec 16)
  crcAcc : Option (BitVec 16)
  gateOk : Option Bool
  phase : Phase
  sbi : Nat
  rep : Nat
  bitpos : Nat
  deriving DecidableEq, Repr

/-- The host reads nothing while a command runs (spec/20_memory.md R88). DESIGN CHOICE, log 30: `PHASE`, `SBI`, `REP`,
`BITPOS` and `CRC_ACC` can be read after a command that ended without an exception too, and `GATE_OK` after one that
ended with one; R371 and R387 give the former after a fault, R345 gives `GATE_OK` after `FrameDone`. -/
def hostView (s : State) : Option HostView :=
  if s.top = .busy then none
  else some
    { last := s.last, faults := s.faults, h := s.h, hdr := s.hdr, geo := s.geo, vbr := s.vbr
      crcAttached := s.crcAttached, crcField := s.crcField, crcAcc := s.crcAcc, gateOk := s.gateOk
      phase := s.phase, sbi := s.sbi, rep := s.rep, bitpos := s.bitpos }

end Sys2Proof.Machine
end

