-- ==== Sys2Proof/Machine/Allocation.lean ====
section
/-! DEFINITION. The allocation codes (format A4; spec/44_alloc_scf.md R272 to R276). The 4 bits have been read. -/

namespace Sys2Proof.Machine

open Sys2Proof

/-- A legal allocation code: it is folded where a checksum is attached, stored for the channel that is read, and the
next code is that of channel 2 of a `Stereo` subband, else of the next subband (spec/44_alloc_scf.md R272, R274,
R277). -/
def storeAlloc (a : BitVec 4) (s : State) : Result :=
  withSubband s.sbi s fun e =>
    require .variant e.variant fun v =>
      foldAlloc a s fun s1 =>
        .next (nextSlot (secondAlloc v) (setSubband s.sbi (putAlloc s.chan a e) s1))

/-- `ALLOC.0` (spec/44_alloc_scf.md R275). -/
def execAlloc0 (s : State) : Result := storeAlloc 0#4 s

/-- `ALLOC.1` (spec/44_alloc_scf.md R276). -/
def execAlloc1 (s : State) : Result := storeAlloc 1#4 s

/-- `ALLOC.2` (spec/44_alloc_scf.md R276). -/
def execAlloc2 (s : State) : Result := storeAlloc 2#4 s

/-- `ALLOC.3` (spec/44_alloc_scf.md R276). -/
def execAlloc3 (s : State) : Result := storeAlloc 3#4 s

/-- `ALLOC.4` (spec/44_alloc_scf.md R276). -/
def execAlloc4 (s : State) : Result := storeAlloc 4#4 s

/-- `ALLOC.5` (spec/44_alloc_scf.md R276). -/
def execAlloc5 (s : State) : Result := storeAlloc 5#4 s

/-- `ALLOC.6` (spec/44_alloc_scf.md R276). -/
def execAlloc6 (s : State) : Result := storeAlloc 6#4 s

/-- `ALLOC.7` (spec/44_alloc_scf.md R276). -/
def execAlloc7 (s : State) : Result := storeAlloc 7#4 s

/-- `ALLOC.8` (spec/44_alloc_scf.md R276). -/
def execAlloc8 (s : State) : Result := storeAlloc 8#4 s

/-- `ALLOC.9` (spec/44_alloc_scf.md R276). -/
def execAlloc9 (s : State) : Result := storeAlloc 9#4 s

/-- `ALLOC.10` (spec/44_alloc_scf.md R276). -/
def execAlloc10 (s : State) : Result := storeAlloc 10#4 s

/-- `ALLOC.11` (spec/44_alloc_scf.md R276). -/
def execAlloc11 (s : State) : Result := storeAlloc 11#4 s

/-- `ALLOC.12` (spec/44_alloc_scf.md R276). -/
def execAlloc12 (s : State) : Result := storeAlloc 12#4 s

/-- `ALLOC.13` (spec/44_alloc_scf.md R276). -/
def execAlloc13 (s : State) : Result := storeAlloc 13#4 s

/-- `ALLOC.14` (spec/44_alloc_scf.md R276). -/
def execAlloc14 (s : State) : Result := storeAlloc 14#4 s

/-- `ALLOC.15`, the reserved code: the whole frame is abandoned; nothing is folded or stored
(spec/44_alloc_scf.md R273). -/
def execAlloc15 (s : State) : Result := .next (raise (.illegalAllocation s.sbi s.chan) s)

end Sys2Proof.Machine
end

