-- ==== Sys2Proof/Machine/Checksum.lean ====
section
/-! DEFINITION. The checksum field element (format C16; spec/41_header.md R210). -/

namespace Sys2Proof.Machine

open Sys2Proof

/-- `CRCW` (spec/41_header.md R210): the field is stored and not folded, the accumulator starts from the header's
final 16 bits (spec/43_crc.md R262, R263) and is attached; the probe is next (R190). -/
def execCrcw (field : BitVec 16) (s : State) : Result :=
  require .h s.h fun h =>
    .next { s with
      crcField := some field
      crcAcc := some (crcSeed s.par.crc h)
      crcAttached := true
      phase := .vbr }

end Sys2Proof.Machine
end

