-- ==== Sys2Proof/Machine/Header.lean ====
section
/-! DEFINITION. The header elements (format H32): the field rules, the geometry and one meaning a row
(spec/41_header.md R190 to R225). -/

namespace Sys2Proof.Machine

open Sys2Proof

/-- The writes of spec/41_header.md R193 and R194, which stand between the layer and the sample-rate test. -/
def writeBeforeRate (t : HdrTail) (s : State) : State :=
  { s with
    hdr := { s.hdr with
      prot := some (!bit t.protection)
      bitrateIndex := some t.bitrateIndex } }

/-- The writes of spec/41_header.md R195 to R200. -/
def writeAfterRate (t : HdrTail) (s : State) : State :=
  { s with
    hdr := { s.hdr with
      srIndex := some t.sampleRateIndex
      padding := some (bit t.padding)
      mode := some (modeOf t.channelMode)
      modeExt := some t.modeExtension
      copyright := some (bit t.copyright)
      original := some (bit t.original) } }

/-- `DERIVE_GEOMETRY` after its first test (spec/41_header.md R201, R203 to R207). -/
def geometryOf (p : Params) (v : Version) (l : Layer) (t : HdrTail) : Geometry :=
  let m := modeOf t.channelMode
  let n := subbandCountOf p v l t
  { subbandCount := some n
    bound := some (boundOf m t.modeExtension n)
    frameSize := some (frameSizeOf p v l t.bitrateIndex t.sampleRateIndex (bit t.padding))
    slotCount := some (slotCountOf p v l t.bitrateIndex t.sampleRateIndex (bit t.padding) m (!bit t.protection)) }

/-- The refused bitrate indices (spec/41_header.md R202). -/
def badBitrate (br : BitVec 4) : Bool := br == 0#4 || br == 15#4

/-- `DECODE_FIELDS` and `DERIVE_GEOMETRY` on a header word, with their tests in the order of spec/41_header.md R190:
version, layer, sample rate, bitrate index. Each test that fails raises; else the body is read next
(spec/40_sync.md R160). -/
def headerWord (f : HdrFields) (s : State) : State :=
  match versionOf f.versionBits with
  | none => raise (.unsupported .badVersion) s
  | some v =>
    let s1 := { s with hdr := { s.hdr with version := some v } }
    match layerOf f.layerBits with
    | none => raise (.unsupported .reservedLayer) s1
    | some l =>
      let s2 := writeBeforeRate f.tail { s1 with hdr := { s1.hdr with layer := some l } }
      if f.tail.sampleRateIndex = 3#2 then raise (.unsupported .reservedSampleRate) s2
      else
        let s3 := writeAfterRate f.tail s2
        if badBitrate f.tail.bitrateIndex then raise (.refused .badBitrateIndex) s3
        else { s3 with geo := geometryOf s.par v l f.tail, phase := .body }

/-- `HDR.BADVER` (spec/41_header.md R221): `H[20:19] = 01`: `BadVersion` before any other field is looked at. -/
def execHdrBadVer (l : BitVec 2) (t : HdrTail) (s : State) : Result :=
  .next (headerWord ⟨0b01#2, l, t⟩ s)

/-- `HDR.L0` (spec/41_header.md R222): layer field 00: `ReservedLayer`. -/
def execHdrL0 (v : BitVec 2) (t : HdrTail) (s : State) : Result :=
  .next (headerWord ⟨v, 0b00#2, t⟩ s)

/-- `HDR.BADRATE` (spec/41_header.md R223): sample-rate index 3: `ReservedSampleRate`. -/
def execHdrBadRate (v l : BitVec 2) (t : HdrTail) (s : State) : Result :=
  .next (headerWord ⟨v, l, t⟩ s)

/-- `HDR.FREEFMT` (spec/41_header.md R224): bitrate index 0: refused with `BadBitrateIndex`. -/
def execHdrFreeFmt (v l : BitVec 2) (t : HdrTail) (s : State) : Result :=
  .next (headerWord ⟨v, l, t⟩ s)

/-- `HDR.BADBR` (spec/41_header.md R225): bitrate index 15: refused with `BadBitrateIndex`. -/
def execHdrBadBr (v l : BitVec 2) (t : HdrTail) (s : State) : Result :=
  .next (headerWord ⟨v, l, t⟩ s)

/-- `HDR.M1.L1` (spec/41_header.md R212): MPEG1, Layer I. -/
def execHdrM1L1 (t : HdrTail) (s : State) : Result :=
  .next (headerWord ⟨0b11#2, 0b11#2, t⟩ s)

/-- `HDR.M1.L2` (spec/41_header.md R213): MPEG1, Layer II. -/
def execHdrM1L2 (t : HdrTail) (s : State) : Result :=
  .next (headerWord ⟨0b11#2, 0b10#2, t⟩ s)

/-- `HDR.M1.L3` (spec/41_header.md R214): MPEG1, Layer III. -/
def execHdrM1L3 (t : HdrTail) (s : State) : Result :=
  .next (headerWord ⟨0b11#2, 0b01#2, t⟩ s)

/-- `HDR.M2.L1` (spec/41_header.md R215): MPEG2_LSF, Layer I. -/
def execHdrM2L1 (t : HdrTail) (s : State) : Result :=
  .next (headerWord ⟨0b10#2, 0b11#2, t⟩ s)

/-- `HDR.M2.L2` (spec/41_header.md R216): MPEG2_LSF, Layer II. -/
def execHdrM2L2 (t : HdrTail) (s : State) : Result :=
  .next (headerWord ⟨0b10#2, 0b10#2, t⟩ s)

/-- `HDR.M2.L3` (spec/41_header.md R217): MPEG2_LSF, Layer III. -/
def execHdrM2L3 (t : HdrTail) (s : State) : Result :=
  .next (headerWord ⟨0b10#2, 0b01#2, t⟩ s)

/-- `HDR.M25.L1` (spec/41_header.md R218): MPEG2_5_LSF, Layer I. -/
def execHdrM25L1 (t : HdrTail) (s : State) : Result :=
  .next (headerWord ⟨0b00#2, 0b11#2, t⟩ s)

/-- `HDR.M25.L2` (spec/41_header.md R219): MPEG2_5_LSF, Layer II. -/
def execHdrM25L2 (t : HdrTail) (s : State) : Result :=
  .next (headerWord ⟨0b00#2, 0b10#2, t⟩ s)

/-- `HDR.M25.L3` (spec/41_header.md R220): MPEG2_5_LSF, Layer III. -/
def execHdrM25L3 (t : HdrTail) (s : State) : Result :=
  .next (headerWord ⟨0b00#2, 0b01#2, t⟩ s)

end Sys2Proof.Machine
end

