-- ==== Sys2Proof/Machine/Samples.lean ====
section
/-! DEFINITION. The sample codes (format Qn) and the stereo mux: store, dequantize, scale, forward
(spec/45_samples_sink.md R304 to R312). The bits have been read. -/

namespace Sys2Proof.Machine

open Sys2Proof

/-- The value a channel contributes: `SCL(DEQ(raw, alloc), scf)` where the gate is open and the channel is
signalled, else +0 (spec/45_samples_sink.md R307 to R310). -/
def channelValue (p : Params) (gate : Bool) (alloc : Option (BitVec 4)) (raw : Option (BitVec 15)) (scf : Option (BitVec 6)) :
    Except Fault Sample :=
  if gate then
    match alloc with
    | none => .error (.readNone .alloc)
    | some a =>
      if signalled a then
        match raw, scf with
        | some r, some i => .ok (scl p (deq p r a) i)
        | none, _ => .error (.readNone .raw)
        | _, none => .error (.readNone .scf)
      else .ok (.number 0)
  else .ok (.number 0)

/-- The values of a subband's two channels. `Mono` has one; `ISX` scales one dequantized value twice
(spec/45_samples_sink.md R307, R308, R309). -/
def subbandValues (p : Params) (gate : Bool) (v : Variant) (e : SubbandRegs) : Except Fault (Sample × Option Sample) :=
  match channelValue p gate e.alloc1 e.raw1 e.scf1 with
  | .error f => .error f
  | .ok v1 =>
    match v with
    | .mono => .ok (v1, none)
    | .stereo =>
      match channelValue p gate e.alloc2 e.raw2 e.scf2 with
      | .error f => .error f
      | .ok v2 => .ok (v1, some v2)
    | .isx =>
      match channelValue p gate e.alloc1 e.raw1 e.scf2 with
      | .error f => .error f
      | .ok v2 => .ok (v1, some v2)

/-- Forwards channel 1's value to sink 1 and channel 2's, where there is one, to sink 2, each where its sink is
enabled (spec/45_samples_sink.md R303, R307 to R309, R312). -/
def forward (m : Mode) (i : Nat) (v1 : Sample) (v2 : Option Sample) (s : State) : State :=
  let s1 := if s1En s.chsel then skInput .sk1 i v1 s else s
  match v2 with
  | none => s1
  | some x => if s2En s.chsel m then skInput .sk2 i x s1 else s1

/-- `EMIT.MONO`, `EMIT.STEREO`, `EMIT.ISX` for the subband at `SBI` (spec/45_samples_sink.md R307 to R309). -/
def emitSubband (v : Variant) (e : SubbandRegs) (s : State) (k : State → Result) : Result :=
  require .gateOk s.gateOk fun gate =>
    require .mode s.hdr.mode fun m =>
      match subbandValues s.par gate v e with
      | .error f => .fault f
      | .ok (v1, v2) => k (forward m s.sbi v1 v2 s)

/-- The end of a channel's turn in `STEP` (spec/45_samples_sink.md R304): channel 2 of a `Stereo` subband is next;
after the subband's last channel its values are forwarded and the next subband is next. -/
def finishSampleSlot (s : State) : Result :=
  withSubband s.sbi s fun e =>
    require .variant e.variant fun v =>
      if s.chan = .ch1 ∧ secondAlloc v = true then .next (nextSlot true s)
      else emitSubband v e s fun s1 => .next (nextSlot false s1)

/-- A sample code is stored for the channel that is read, and the channel's turn ends
(spec/45_samples_sink.md R304, R305). -/
def storeSample (raw : BitVec 15) (s : State) : Result :=
  withSubband s.sbi s fun e => finishSampleSlot (setSubband s.sbi (putRaw s.chan raw e) s)

/-- `SAMP.2` (spec/45_samples_sink.md R305). -/
def execSamp2 (raw : BitVec 2) (s : State) : Result := storeSample (raw.zeroExtend 15) s

/-- `SAMP.3` (spec/45_samples_sink.md R305). -/
def execSamp3 (raw : BitVec 3) (s : State) : Result := storeSample (raw.zeroExtend 15) s

/-- `SAMP.4` (spec/45_samples_sink.md R305). -/
def execSamp4 (raw : BitVec 4) (s : State) : Result := storeSample (raw.zeroExtend 15) s

/-- `SAMP.5` (spec/45_samples_sink.md R305). -/
def execSamp5 (raw : BitVec 5) (s : State) : Result := storeSample (raw.zeroExtend 15) s

/-- `SAMP.6` (spec/45_samples_sink.md R305). -/
def execSamp6 (raw : BitVec 6) (s : State) : Result := storeSample (raw.zeroExtend 15) s

/-- `SAMP.7` (spec/45_samples_sink.md R305). -/
def execSamp7 (raw : BitVec 7) (s : State) : Result := storeSample (raw.zeroExtend 15) s

/-- `SAMP.8` (spec/45_samples_sink.md R305). -/
def execSamp8 (raw : BitVec 8) (s : State) : Result := storeSample (raw.zeroExtend 15) s

/-- `SAMP.9` (spec/45_samples_sink.md R305). -/
def execSamp9 (raw : BitVec 9) (s : State) : Result := storeSample (raw.zeroExtend 15) s

/-- `SAMP.10` (spec/45_samples_sink.md R305). -/
def execSamp10 (raw : BitVec 10) (s : State) : Result := storeSample (raw.zeroExtend 15) s

/-- `SAMP.11` (spec/45_samples_sink.md R305). -/
def execSamp11 (raw : BitVec 11) (s : State) : Result := storeSample (raw.zeroExtend 15) s

/-- `SAMP.12` (spec/45_samples_sink.md R305). -/
def execSamp12 (raw : BitVec 12) (s : State) : Result := storeSample (raw.zeroExtend 15) s

/-- `SAMP.13` (spec/45_samples_sink.md R305). -/
def execSamp13 (raw : BitVec 13) (s : State) : Result := storeSample (raw.zeroExtend 15) s

/-- `SAMP.14` (spec/45_samples_sink.md R305). -/
def execSamp14 (raw : BitVec 14) (s : State) : Result := storeSample (raw.zeroExtend 15) s

/-- `SAMP.15` (spec/45_samples_sink.md R305). -/
def execSamp15 (raw : BitVec 15) (s : State) : Result := storeSample (raw.zeroExtend 15) s

end Sys2Proof.Machine
end

