-- ==== Sys2Proof/Machine/ScaleFactor.lean ====
section
/-! DEFINITION. The scale-factor indices (format S6; spec/44_alloc_scf.md R280 to R283). The 6 bits have been
read. -/

namespace Sys2Proof.Machine

open Sys2Proof

/-- A scale-factor index is stored for the channel that is read; the next slot is channel 2 of a `Stereo` or `ISX`
subband, else the next subband (spec/44_alloc_scf.md R280, R283). It is not folded into the checksum (R284). -/
def storeScf (i : BitVec 6) (s : State) : Result :=
  withSubband s.sbi s fun e =>
    require .variant e.variant fun v =>
      .next (nextSlot (secondScf v) (setSubband s.sbi (putScf s.chan i e) s))

/-- `SCF.63`: the defined-zero index is stored like any other; it is no error (spec/44_alloc_scf.md R282). -/
def execScf63 (s : State) : Result := storeScf 63#6 s

/-- `SCF` (spec/44_alloc_scf.md R280, R281). -/
def execScf (index : BitVec 6) (s : State) : Result := storeScf index s

end Sys2Proof.Machine
end

