-- ==== Sys2Proof/Machine/Vbr.lean ====
section
/-! DEFINITION. The metadata tags (format T32): the "Xing" and "VBRI" blocks (spec/42_vbr.md R243 to R251). The tag
has been matched. Nothing here moves the bit cursor (R253). -/

namespace Sys2Proof.Machine

open Sys2Proof

/-- A block being read: going on at a running offset, or ended by `VbrHeaderCorrupt`. -/
inductive Block where
  | going (o : Nat) (s : State)
  | corrupt (s : State)

/-- `need(e)` (spec/42_vbr.md R251). -/
def needBytes (e : Nat) (s : State) (k : State → Block) : Block :=
  if s.fb.length < e then .corrupt (raise .vbrHeaderCorrupt s) else k s

/-- One gated field of the Xing block: present only if its flag is set, consuming exactly its width
(spec/42_vbr.md R245). -/
def xingField (present : Bool) (width : Nat) (store : Nat → State → State) (b : Block) : Block :=
  match b with
  | .corrupt s => .corrupt s
  | .going o s =>
    if present then needBytes (o + width) s fun s1 => .going (o + width) (store o s1) else .going o s

/-- `VBR_FRAMES <- BE32(o)`. -/
def storeFrames (o : Nat) (s : State) : State := { s with vbr := { s.vbr with frames := some (be32 s o) } }

/-- `VBR_BYTES <- BE32(o)`. -/
def storeBytes (o : Nat) (s : State) : State := { s with vbr := { s.vbr with bytes := some (be32 s o) } }

/-- `VBR_SCALE <- BE32(o)`. -/
def storeScale (o : Nat) (s : State) : State := { s with vbr := { s.vbr with scale := some (be32 s o) } }

/-- `VBR_TOC <- FB[o .. o+99]`. -/
def storeToc (o : Nat) (s : State) : State :=
  { s with vbr := { s.vbr with toc := some ((List.range 100).map fun k => fbByte s (o + k)) } }

/-- Is a flag of the flag byte set? -/
def flagSet (flags mask : Byte) : Bool := flags &&& mask != 0#8

/-- `XING_FIELDS` at offset `x` (spec/42_vbr.md R244, R245, R246). -/
def xingFields (x : Nat) (s : State) : Block :=
  needBytes (x + 8) s fun s =>
    let flags := fbByte s (x + 7)
    let masks := xingMasks s.par.xingFlags
    xingField (flagSet flags masks.2.2.2) 4 storeScale
      (xingField (flagSet flags masks.2.2.1) 100 storeToc
        (xingField (flagSet flags masks.2.1) 4 storeBytes
          (xingField (flagSet flags masks.1) 4 storeFrames (.going (x + 8) s))))

/-- The end of a block: the command has ended, or the probe goes on at `p`. -/
def endBlock (p : Probe) (b : Block) : Result :=
  match b with
  | .corrupt s => .next s
  | .going _ s => .next { s with probe := p }

/-- `XING` (spec/42_vbr.md R243): `IS_VBR` first, then the fields; the VBRI probe is next (R241). -/
def execXing (s : State) : Result :=
  require .version s.hdr.version fun v =>
    require .mode s.hdr.mode fun m =>
      endBlock .vbri (xingFields (xingOffset v m) { s with vbr := { s.vbr with isVbr := true } })

/-- The fields of the VBRI block (spec/42_vbr.md R249, R122). -/
def vbriFields (s : State) : Block :=
  needBytes 46 s fun s => needBytes 50 (storeBytes 42 s) fun s => .going 50 (storeFrames 46 s)

/-- `VBRI` (spec/42_vbr.md R249, R250): `IS_VBR`, the four value registers back to "unknown", then the byte count
and the frame count; the probe is over. -/
def execVbri (s : State) : Result :=
  endBlock .done (vbriFields { s with vbr := { VbrRegs.unknown with isVbr := true } })

end Sys2Proof.Machine
end

