-- ==== Sys2Proof/Machine/Dispatch.lean ====
section
/-! DEFINITION. One arm per element of spec/opcode_table.json. -/

namespace Sys2Proof.Machine

open Sys2Proof

def exec (i : Instr) (s : State) : Host.Outcome State Fault Refusal :=
  match i with
  | .hdrBadVer l t => Sys2Proof.Machine.execHdrBadVer l t s
  | .hdrL0 v t => Sys2Proof.Machine.execHdrL0 v t s
  | .hdrBadRate v l t => Sys2Proof.Machine.execHdrBadRate v l t s
  | .hdrFreeFmt v l t => Sys2Proof.Machine.execHdrFreeFmt v l t s
  | .hdrBadBr v l t => Sys2Proof.Machine.execHdrBadBr v l t s
  | .hdrM1L1 t => Sys2Proof.Machine.execHdrM1L1 t s
  | .hdrM1L2 t => Sys2Proof.Machine.execHdrM1L2 t s
  | .hdrM1L3 t => Sys2Proof.Machine.execHdrM1L3 t s
  | .hdrM2L1 t => Sys2Proof.Machine.execHdrM2L1 t s
  | .hdrM2L2 t => Sys2Proof.Machine.execHdrM2L2 t s
  | .hdrM2L3 t => Sys2Proof.Machine.execHdrM2L3 t s
  | .hdrM25L1 t => Sys2Proof.Machine.execHdrM25L1 t s
  | .hdrM25L2 t => Sys2Proof.Machine.execHdrM25L2 t s
  | .hdrM25L3 t => Sys2Proof.Machine.execHdrM25L3 t s
  | .crcw field => Sys2Proof.Machine.execCrcw field s
  | .alloc0 => Sys2Proof.Machine.execAlloc0 s
  | .alloc1 => Sys2Proof.Machine.execAlloc1 s
  | .alloc2 => Sys2Proof.Machine.execAlloc2 s
  | .alloc3 => Sys2Proof.Machine.execAlloc3 s
  | .alloc4 => Sys2Proof.Machine.execAlloc4 s
  | .alloc5 => Sys2Proof.Machine.execAlloc5 s
  | .alloc6 => Sys2Proof.Machine.execAlloc6 s
  | .alloc7 => Sys2Proof.Machine.execAlloc7 s
  | .alloc8 => Sys2Proof.Machine.execAlloc8 s
  | .alloc9 => Sys2Proof.Machine.execAlloc9 s
  | .alloc10 => Sys2Proof.Machine.execAlloc10 s
  | .alloc11 => Sys2Proof.Machine.execAlloc11 s
  | .alloc12 => Sys2Proof.Machine.execAlloc12 s
  | .alloc13 => Sys2Proof.Machine.execAlloc13 s
  | .alloc14 => Sys2Proof.Machine.execAlloc14 s
  | .alloc15 => Sys2Proof.Machine.execAlloc15 s
  | .scf63 => Sys2Proof.Machine.execScf63 s
  | .scf index => Sys2Proof.Machine.execScf index s
  | .samp2 raw => Sys2Proof.Machine.execSamp2 raw s
  | .samp3 raw => Sys2Proof.Machine.execSamp3 raw s
  | .samp4 raw => Sys2Proof.Machine.execSamp4 raw s
  | .samp5 raw => Sys2Proof.Machine.execSamp5 raw s
  | .samp6 raw => Sys2Proof.Machine.execSamp6 raw s
  | .samp7 raw => Sys2Proof.Machine.execSamp7 raw s
  | .samp8 raw => Sys2Proof.Machine.execSamp8 raw s
  | .samp9 raw => Sys2Proof.Machine.execSamp9 raw s
  | .samp10 raw => Sys2Proof.Machine.execSamp10 raw s
  | .samp11 raw => Sys2Proof.Machine.execSamp11 raw s
  | .samp12 raw => Sys2Proof.Machine.execSamp12 raw s
  | .samp13 raw => Sys2Proof.Machine.execSamp13 raw s
  | .samp14 raw => Sys2Proof.Machine.execSamp14 raw s
  | .samp15 raw => Sys2Proof.Machine.execSamp15 raw s
  | .xing => Sys2Proof.Machine.execXing s
  | .vbri => Sys2Proof.Machine.execVbri s

end Sys2Proof.Machine
end

