-- ==== Sys2Proof/Machine/Fetch.lean ====
section
/-! DEFINITION. Fetching the next element: which format stands at the sequencer's position (spec/30_encoding.md R110,
R120), and the read that takes its bits. Also where an element is placed so that the next step fetches it. -/

namespace Sys2Proof.Machine

open Sys2Proof

/-- What the fetch finds. -/
inductive Fetched where
  /-- an element, and the state after its bits were taken -/
  | element (i : Instr) (s : State)
  /-- no element stands here: a sequencer's step -/
  | noElement
  /-- the read raised an exception: the state after it -/
  | ended (s : State)
  | stopped (f : Fault)
  | rejected (r : Refusal)

/-- Reads a register that may hold "none", for the fetch (spec/10_state.md R23). -/
def fetchReg {α : Type} (r : Reg) (o : Option α) (k : α → Fetched) : Fetched :=
  match o with
  | some a => k a
  | none => .stopped (.readNone r)

/-- Reads `SB[SBI]` and its variant, for the fetch. -/
def fetchSubband (s : State) (k : SubbandRegs → Variant → Fetched) : Fetched :=
  match s.sb[s.sbi]? with
  | some e => fetchReg .variant e.variant (k e)
  | none => .stopped (.noSuchSubband s.sbi)

/-- The decoder's answer on taken bits. -/
def decoded (k : Kind) (w : Word) (s : State) : Fetched :=
  match decodeWord k w with
  | .ok i => .element i s
  | .error why => .rejected (.undecodable why)

/-- Takes an element of format `k` at `BITPOS` with `GetBits`; a read past the body raises `FrameOverrun`
(spec/20_memory.md R77, R83). -/
def fetchBits (k : Kind) (s : State) : Fetched :=
  match getBits k.width s with
  | none => .ended (raise .frameOverrun s)
  | some (v, s1) => decoded k (v.zeroExtend 32) s1

/-- The four bytes at FB offset `x`, where the buffer holds them, against one tag (spec/42_vbr.md R243, R249). -/
def fetchTag (x : Nat) (tag : Instr) (s : State) : Fetched :=
  if s.fb.length < x + 4 then .noElement
  else if decodeTag (be32 s x) = .ok tag then .element tag s
  else .noElement

/-- The tag the probe stands at (spec/42_vbr.md R241, R242, R248). -/
def fetchProbe (s : State) : Fetched :=
  match s.probe with
  | .xing =>
    fetchReg .version s.hdr.version fun v =>
      fetchReg .mode s.hdr.mode fun m => fetchTag (xingOffset v m) .xing s
  | .vbri => fetchTag vbriOffset .vbri s
  | .start => .noElement
  | .done => .noElement

/-- The next allocation code (spec/44_alloc_scf.md R272). -/
def fetchAlloc (s : State) : Fetched :=
  fetchReg .subbandCount s.geo.subbandCount fun n => if s.sbi < n then fetchBits .a4 s else .noElement

/-- The next scale-factor index, where the channel has one (spec/44_alloc_scf.md R280). -/
def fetchScf (s : State) : Fetched :=
  fetchReg .subbandCount s.geo.subbandCount fun n =>
    if s.sbi < n then
      fetchSubband s fun e v =>
        fetchReg .alloc (allocFor v s.chan e) fun a => if signalled a then fetchBits .s6 s else .noElement
    else .noElement

/-- The next sample code, where the gate is open and the channel is signalled (spec/45_samples_sink.md R305); its
length is that of the allocation read earlier (spec/30_encoding.md R125). -/
def fetchSample (s : State) : Fetched :=
  fetchReg .subbandCount s.geo.subbandCount fun n =>
    if s.sbi < n then
      fetchReg .gateOk s.gateOk fun gate =>
        if gate then
          fetchSubband s fun e v =>
            fetchReg .alloc (allocFor v s.chan e) fun a =>
              if signalled a then fetchBits (.q (sampleLength a)) s else .noElement
        else .noElement
    else .noElement

/-- The element at the sequencer's position (spec/10_state.md R41, spec/30_encoding.md R120). -/
def fetch (s : State) : Fetched :=
  match s.phase with
  | .header => fetchReg .h s.h fun w => decoded .h32 w s
  | .crcw => fetchReg .prot s.hdr.prot fun p => if p then fetchBits .c16 s else .noElement
  | .vbr => fetchProbe s
  | .alloc => fetchAlloc s
  | .scf => fetchScf s
  | .samples => fetchSample s
  | .sync => .noElement
  | .body => .noElement
  | .validate => .noElement
  | .construct => .noElement
  | .gate => .noElement
  | .done => .noElement

/-! ### Placing an element -/

/-- `SB` with subband 0 a `Mono` subband of allocation code `a`. -/
def monoSubband (a : Option (BitVec 4)) (scf : Option (BitVec 6)) : Vector SubbandRegs 32 :=
  blankSubbands.setIfInBounds 0
    { SubbandRegs.blank with variant := some .mono, alloc1 := a, scf1 := scf }

/-- The state with a body element placed at bit 0 of the frame buffer, at phase `p`, subband 0. -/
def withBodyElement (p : Phase) (n w : Nat) (sb : Vector SubbandRegs 32) (s : State) : State :=
  { s with
    top := .busy, phase := p, fb := packBits n w, bitpos := 0, sb := sb, sbi := 0, chan := .ch1
    geo := { s.geo with subbandCount := some 32 } }

/-- The state with an element of format `k` placed where the next step fetches it (log 20): a header word in `H`, a
tag at its place in the frame buffer, any other element at bit 0 of the frame buffer. Bits beyond it are 0. -/
def placeElement (k : Kind) (w : Nat) (s : State) : State :=
  match k with
  | .h32 => { s with top := .busy, phase := .header, h := some (BitVec.ofNat 32 w) }
  | .c16 =>
    { s with
      top := .busy, phase := .crcw, fb := packBits 16 w, bitpos := 0, h := some (s.h.getD 0#32)
      hdr := { s.hdr with prot := some true } }
  | .a4 => { withBodyElement .alloc 4 w (monoSubband none none) s with crcAttached := false }
  | .s6 => withBodyElement .scf 6 w (monoSubband (some 1#4) none) s
  | .q n =>
    { withBodyElement .samples n w (monoSubband (some (BitVec.ofNat 4 (n - 1))) (some 0#6)) s with
      gateOk := some true
      hdr := { s.hdr with mode := some .singleChannel } }
  | .t32 =>
    if BitVec.ofNat 32 w = xingTag then
      { s with
        top := .busy, phase := .vbr, probe := .xing
        fb := List.replicate 17 0#8 ++ packBits 32 w ++ List.replicate 112 0#8
        hdr := { s.hdr with version := some .mpeg1, mode := some .singleChannel } }
    else
      { s with
        top := .busy, phase := .vbr, probe := .vbri
        fb := List.replicate 32 0#8 ++ packBits 32 w ++ List.replicate 14 0#8 }

end Sys2Proof.Machine
end

