-- ==== Sys2Proof/Machine/Sequencer.lean ====
section
/-! DEFINITION. The sequencer's steps that no element selects (spec/30_encoding.md R129): the search, the body read,
validation and locking, the probe's stages, construction, the gate, the flushes, the end of the frame, and the
phase transfers of spec/46_frame_loop_host.md R344. -/

namespace Sys2Proof.Machine

open Sys2Proof

/-- The lock a search compares with; under `INITIAL_SYNC` none is used (spec/40_sync.md R161, R162). -/
def withLock (s : State) (k : Word → Result) : Result :=
  match s.syncMode with
  | .initialSync => k 0#32
  | .strictSync => require .lock s.lock k

/-- `P_SYNC` (spec/40_sync.md R160, R163). -/
def stepSync (s : State) : Result :=
  withLock s fun lock =>
    match rdSync s.syncMode lock s with
    | none => .fault .syncNeverAnswers
    | some (.endOfStream, s1) => .next (raise .lostSync s1)
    | some (.ioError, s1) => .next (raise .ioFailure s1)
    | some (.word w, s1) => .next { s1 with h := some w, phase := .header }

/-- The body is shorter than `FRAME_SIZE`: drop it and search again (spec/40_sync.md R167). -/
def rejectShort (s : State) : State :=
  { rdClose (logEvent .frameSizeMismatch s) with phase := .sync }

/-- `P_BODY` (spec/40_sync.md R160, spec/41_header.md R208). -/
def stepBody (s : State) : Result :=
  require .frameSize s.geo.frameSize fun n =>
    if s.par.frameBufCap < n then .fault (.frameBufferExceeded n)
    else
      match rdReadFrame n s with
      | (.ioError, s1) => .next (raise .ioFailure s1)
      | (.count k, s1) => .next (if k = n then { s1 with phase := .validate } else rejectShort s1)

/-- `LOCK_IF_FIRST` (spec/40_sync.md R170), then the checksum field (spec/41_header.md R190). -/
def acceptFrame (s : State) : Result :=
  match s.syncMode with
  | .initialSync =>
    require .h s.h fun h =>
      .next { s with lock := some (h &&& s.par.lockMask), syncMode := .strictSync, phase := .crcw }
  | .strictSync => .next { s with phase := .crcw }

/-- A strict-sync mismatch: the body goes back to the stream and the search goes on (spec/40_sync.md R169). -/
def rejectStrict (s : State) : State :=
  { rdUnread (logEvent .strictSyncMismatch s) with phase := .sync }

/-- `P_VALIDATE`: `VALIDATE` and `LOCK_IF_FIRST` (spec/40_sync.md R168, R169, R170). -/
def stepValidate (s : State) : Result :=
  match s.syncMode, s.par.strictValidate with
  | .initialSync, _ => acceptFrame s
  | .strictSync, .trivial => acceptFrame s
  | .strictSync, .lookahead =>
    require .lock s.lock fun lock =>
      let a := peekAnswer .strictSync lock s
      let s1 := logEvent (.rdPeekSync a) s
      if a = .isMatch ∨ a = .atEnd then acceptFrame s1 else .next (rejectStrict s1)

/-- `P_CRCW` of an unprotected frame (spec/41_header.md R210). -/
def stepUnprotected (s : State) : Result := .next { s with crcAttached := false, phase := .vbr }

/-- `P_VBR` where no tag is read (spec/42_vbr.md R241, R243, R249); after the probe a frame of layer 2 or 3 is refused
(spec/46_frame_loop_host.md R343, R346). -/
def stepProbe (s : State) : Result :=
  match s.probe with
  | .start => .next (if s.first then { s with first := false, probe := .xing } else { s with probe := .done })
  | .xing => .next { s with probe := .vbri }
  | .vbri => .next { s with probe := .done }
  | .done =>
    require .layer s.hdr.layer fun l =>
      .next (if l = .one then { s with phase := .construct } else raise (.refused .layerNotDecoded) s)

/-- The variant of subband `i` (spec/44_alloc_scf.md R271, spec/30_encoding.md R120). -/
def variantOf (m : Mode) (bound i : Nat) : Variant :=
  match m with
  | .singleChannel => .mono
  | .jointStereo => if i < bound then .stereo else .isx
  | .stereo => .stereo
  | .dualChannel => .stereo

/-- The register file `CONSTRUCT` leaves (spec/44_alloc_scf.md R271). -/
def constructed (m : Mode) (bound n : Nat) : Vector SubbandRegs 32 :=
  Vector.ofFn fun i : Fin 32 =>
    if i.val < n then { SubbandRegs.blank with variant := some (variantOf m bound i.val) } else SubbandRegs.blank

/-- The bound that `CONSTRUCT` reads: `BOUND` for `JOINT_STEREO`; the other modes do not read it
(spec/44_alloc_scf.md R271). -/
def withBound (m : Mode) (s : State) (k : Nat → Result) : Result :=
  if m = .jointStereo then require .bound s.geo.bound k else k 0

/-- `P_CONSTRUCT` (spec/44_alloc_scf.md R270, R271). -/
def stepConstruct (s : State) : Result :=
  require .mode s.hdr.mode fun m =>
    withBound m s fun bound =>
      require .subbandCount s.geo.subbandCount fun n =>
        .next { s with sb := constructed m bound n, phase := .alloc, sbi := 0, chan := .ch1 }

/-- `P_ALLOC` after the last subband (spec/44_alloc_scf.md R270, spec/46_frame_loop_host.md R344). -/
def endAlloc (s : State) : Result := .next { s with phase := .scf, sbi := 0, chan := .ch1 }

/-- `P_SCF` where the channel has no index (spec/44_alloc_scf.md R280), or after the last subband (R270). -/
def stepScf (s : State) : Result :=
  require .subbandCount s.geo.subbandCount fun n =>
    if s.sbi < n then
      withSubband s.sbi s fun e =>
        require .variant e.variant fun v => .next (nextSlot (secondScf v) s)
    else .next { s with phase := .gate }

/-- The sample phase begins (spec/45_samples_sink.md R304). -/
def startSamples (s : State) : State := { s with phase := .samples, rep := 0, sbi := 0, chan := .ch1 }

/-- `GATE_OK <- 1` and `LENGTH_CHECK` (spec/45_samples_sink.md R301, R318). -/
def openGate (s : State) : Result :=
  require .subbandCount s.geo.subbandCount fun n =>
    require .alloc (totalBits s.sb n) fun w =>
      if 8 * s.fb.length < s.bitpos + 12 * w then .next (raise .frameOverrun { s with gateOk := some true })
      else .next (startSamples { s with gateOk := some true })

/-- `P_GATE`: `CRC.CHECK` and the gate (spec/45_samples_sink.md R301, R302, spec/43_crc.md R265). -/
def stepGate (s : State) : Result :=
  if s.crcAttached then
    require .crcAcc s.crcAcc fun acc =>
      require .crcField s.crcField fun field =>
        if crcResult s.par.crc acc = field then openGate s
        else .next (startSamples { logEvent .checksumMismatch s with gateOk := some false })
  else openGate s

/-- `FLUSH`: sink 1, then sink 2, each where it is enabled (spec/45_samples_sink.md R304, R311). -/
def flushSinks (m : Mode) (s : State) : State :=
  let s1 := if s1En s.chsel then skFlush .sk1 s else s
  if s2En s.chsel m then skFlush .sk2 s1 else s1

/-- The end of a repetition: the flushes, then the next repetition, or after the twelfth `P_DONE`
(spec/45_samples_sink.md R304, R311). -/
def endRepetition (s : State) : Result :=
  require .mode s.hdr.mode fun m =>
    let s1 := flushSinks m s
    if s.rep + 1 < 12 then .next { s1 with rep := s.rep + 1, sbi := 0, chan := .ch1 }
    else .next { s1 with rep := s.rep + 1, phase := .done }

/-- `P_SAMPLES` where no code is read: a silent channel's turn ends, or the repetition ends
(spec/45_samples_sink.md R304, R305, R310). -/
def stepSamples (s : State) : Result :=
  require .subbandCount s.geo.subbandCount fun n =>
    if s.sbi < n then finishSampleSlot s else endRepetition s

/-- `P_DONE`: the frame is complete (spec/46_frame_loop_host.md R343, R345, R347). -/
def finishFrame (s : State) : State :=
  { rdClose s with sb := blankSubbands, last := .frameDone, top := .idle }

/-- The sequencer's step at a phase where no element is read. At `P_HEADER` the fetch always finds an element or stops,
so that line is never met. -/
def sequencer (s : State) : Result :=
  match s.phase with
  | .sync => stepSync s
  | .header => .fault (.readNone .h)
  | .body => stepBody s
  | .validate => stepValidate s
  | .crcw => stepUnprotected s
  | .vbr => stepProbe s
  | .construct => stepConstruct s
  | .alloc => endAlloc s
  | .scf => stepScf s
  | .gate => stepGate s
  | .samples => stepSamples s
  | .done => .next (finishFrame s)

end Sys2Proof.Machine
end

