-- ==== Sys2Proof/Machine/Step.lean ====
section
/-! DEFINITION. One step: while a command runs, the next element is fetched and executed, or where none stands the
sequencer makes its own step; while none runs, the host acts or the block waits (log 1). -/

namespace Sys2Proof.Machine

open Sys2Proof

/-- One step of a running `DECODE_FRAME`. -/
def busyStep (s : State) : Host.Outcome State Fault Refusal :=
  match fetch s with
  | .element i s1 => exec i s1
  | .noElement => sequencer s
  | .ended s1 => .next s1
  | .stopped f => .fault f
  | .rejected r => .refused r

/-- One step of the machine. -/
def step (s : State) : Host.Outcome State Fault Refusal :=
  match s.top with
  | .busy => busyStep s
  | .idle => .next (hostStep s)
  | .halted => .next (hostStep s)

/-- The state in which the element of an opcode-table word is what the next step fetches (log 20). -/
def State.withFetchWord (s : State) (nbits w : Nat) : State := placeElement (tableKind nbits w) w s

end Sys2Proof.Machine
end

