-- ==== Sys2Proof/Safety.lean ====
section
/-! DEFINITION. What counts as a safe run, in the terms claims use: the invariant of the reachable states, built from
what the spec says of each register and of each phase, and the faults a safe state excludes. -/

namespace Sys2Proof.Machine

open Sys2Proof

/-! ### The parameters -/

/-- What the rules say of the parameters (spec/00_scope.md R6): the sync bits are locked (spec/40_sync.md R164), no
header has more than 32 subbands (spec/41_header.md R204), and every body of a header without a fault fits the frame
buffer (spec/20_memory.md R76). R6's values have it. -/
structure ParamsOk (p : Params) : Prop where
  syncLocked : p.lockMask &&& syncMask = syncMask
  subbands : ∀ (v : Version) (l : Layer) (t : HdrTail), subbandsL23 p v l t ≤ 32
  bodies : ∀ (v : Version) (l : Layer) (br : BitVec 4) (sr : BitVec 2) (pad : Bool),
    br ≠ 0#4 → br ≠ 15#4 → sr ≠ 3#2 → frameSizeOf p v l br sr pad ≤ p.frameBufCap

/-! ### The header and its geometry -/

/-- The header registers a word with these fields leaves (spec/41_header.md R191 to R200). -/
def headerRegsOf (v : Version) (l : Layer) (t : HdrTail) : HeaderRegs where
  version := some v
  layer := some l
  prot := some (!bit t.protection)
  bitrateIndex := some t.bitrateIndex
  srIndex := some t.sampleRateIndex
  padding := some (bit t.padding)
  mode := some (modeOf t.channelMode)
  modeExt := some t.modeExtension
  copyright := some (bit t.copyright)
  original := some (bit t.original)

/-- `H` is `w` and every header and geometry register holds what `w` says (spec/41_header.md R209, R211,
spec/70_reset_and_hazards.md R427). -/
def HeaderFrom (s : State) (w : Word) (v : Version) (l : Layer) : Prop :=
  s.h = some w ∧ w &&& syncMask = syncMask ∧
  versionOf (headerFieldsOf w).versionBits = some v ∧
  layerOf (headerFieldsOf w).layerBits = some l ∧
  (headerFieldsOf w).tail.sampleRateIndex ≠ 3#2 ∧
  badBitrate (headerFieldsOf w).tail.bitrateIndex = false ∧
  s.hdr = headerRegsOf v l (headerFieldsOf w).tail ∧
  s.geo = geometryOf s.par v l (headerFieldsOf w).tail

/-- A header has been decoded in full. -/
def HeaderKnown (s : State) : Prop := ∃ w v l, HeaderFrom s w v l

/-- The body of a known header is in the frame buffer (spec/41_header.md R208) and the cursor is inside it
(spec/10_state.md R41). -/
def BodyRead (s : State) : Prop :=
  HeaderKnown s ∧ s.geo.frameSize = some s.fb.length ∧ s.bitpos ≤ 8 * s.fb.length

/-! ### The lock -/

/-- `LOCK` is "none" exactly under `INITIAL_SYNC`; else it has no bit outside `LOCK_MASK` and all the sync bits
(spec/10_state.md R25, spec/40_sync.md R162). -/
def LockInv (s : State) : Prop :=
  match s.syncMode with
  | .initialSync => s.lock = none
  | .strictSync => ∃ l, s.lock = some l ∧ l &&& s.par.lockMask = l ∧ l &&& syncMask = syncMask

/-- A candidate's header matches the lock, where there is one (spec/40_sync.md R162). -/
def MatchesLock (s : State) : Prop := ∀ l w, s.lock = some l → s.h = some w → w &&& s.par.lockMask = l

/-- The frame's header is locked (spec/40_sync.md R170). -/
def Locked (s : State) : Prop := ∃ w, s.h = some w ∧ s.lock = some (w &&& s.par.lockMask)

/-! ### The subband register file -/

/-- A code has been stored, and it is not the reserved one (spec/10_state.md R38). -/
def codeOk (a : Option (BitVec 4)) : Bool :=
  match a with
  | some a => a != 15#4
  | none => false

/-- Every allocation code of the entry's variant has been read (spec/44_alloc_scf.md R272). -/
def allocRead (e : SubbandRegs) : Bool :=
  match e.variant with
  | some .stereo => codeOk e.alloc1 && codeOk e.alloc2
  | some _ => codeOk e.alloc1
  | none => false

/-- A register is there where the code that governs it is signalled. -/
def presentIf {α : Type} (a : Option (BitVec 4)) (r : Option α) : Bool :=
  match a with
  | some a => !signalled a || r.isSome
  | none => false

/-- Every scale-factor index of the entry's variant has been read (spec/44_alloc_scf.md R280). -/
def scfRead (e : SubbandRegs) : Bool :=
  match e.variant with
  | some .mono => presentIf e.alloc1 e.scf1
  | some .stereo => presentIf e.alloc1 e.scf1 && presentIf e.alloc2 e.scf2
  | some .isx => presentIf e.alloc1 e.scf1 && presentIf e.alloc1 e.scf2
  | none => false

/-- `CONSTRUCT` has run for the header's mode and bound (spec/44_alloc_scf.md R271). -/
def ConstructedFor (s : State) : Prop :=
  s.hdr.layer = some .one ∧ s.geo.subbandCount = some 32 ∧
  ∃ m b, s.hdr.mode = some m ∧ s.geo.bound = some b ∧
    ∀ (i : Nat) (hi : i < 32), s.sb[i].variant = some (variantOf m b i)

/-- Where the sequencer stands in the allocation phase. -/
def AllocProgress (s : State) : Prop :=
  (∀ (i : Nat) (hi : i < 32), i < s.sbi → allocRead s.sb[i] = true) ∧
  (s.chan = .ch2 → ∃ hi : s.sbi < 32, s.sb[s.sbi].variant = some .stereo ∧ codeOk s.sb[s.sbi].alloc1 = true)

/-- Every allocation code of the frame has been read. -/
def AllAlloc (s : State) : Prop := ∀ (i : Nat) (hi : i < 32), allocRead s.sb[i] = true

/-- Where the sequencer stands in the scale-factor phase. -/
def ScfProgress (s : State) : Prop :=
  (∀ (i : Nat) (hi : i < 32), i < s.sbi → scfRead s.sb[i] = true) ∧
  (s.chan = .ch2 →
    ∃ hi : s.sbi < 32, s.sb[s.sbi].variant ≠ some .mono ∧ presentIf s.sb[s.sbi].alloc1 s.sb[s.sbi].scf1 = true)

/-- Every scale-factor index of the frame has been read. -/
def AllScf (s : State) : Prop := ∀ (i : Nat) (hi : i < 32), scfRead s.sb[i] = true

/-- Bits of the subband at `SBI` already read in this repetition: those of channel 1 where channel 2 is next. -/
def readInSubband (s : State) : Nat :=
  match s.chan with
  | .ch1 => 0
  | .ch2 => (((s.sb[s.sbi]?).bind (·.alloc1)).map codeBits).getD 0

/-- Where the sequencer stands in the sample phase: every later read fits in the body, as `LENGTH_CHECK` has tested
(spec/45_samples_sink.md R318). -/
def SampleProgress (s : State) : Prop :=
  s.rep < 12 ∧
  ∃ g, s.gateOk = some g ∧
    (s.chan = .ch2 →
      ∃ hi : s.sbi < 32, s.sb[s.sbi].variant = some .stereo ∧
        (g = true → presentIf s.sb[s.sbi].alloc1 s.sb[s.sbi].raw1 = true)) ∧
    (g = true →
      ∃ w p, totalBits s.sb 32 = some w ∧ totalBits s.sb s.sbi = some p ∧
        s.bitpos + (12 - s.rep) * w ≤ 8 * s.fb.length + p + readInSubband s)

/-! ### The phases -/

/-- What holds in each phase of a running command (spec/46_frame_loop_host.md R344). -/
def PhaseInv (s : State) : Prop :=
  match s.phase with
  | .sync => s.fb = [] ∧ s.crcAttached = false
  | .header => s.fb = [] ∧ s.crcAttached = false ∧ MatchesLock s ∧ ∃ w, s.h = some w ∧ w &&& syncMask = syncMask
  | .body => s.fb = [] ∧ s.crcAttached = false ∧ MatchesLock s ∧ HeaderKnown s
  | .validate => s.crcAttached = false ∧ MatchesLock s ∧ BodyRead s ∧ s.bitpos = 0
  | .crcw => s.crcAttached = false ∧ Locked s ∧ BodyRead s ∧ s.bitpos = 0
  | .vbr => Locked s ∧ BodyRead s ∧ s.hdr.prot = some s.crcAttached
  | .construct => Locked s ∧ BodyRead s ∧ s.hdr.prot = some s.crcAttached ∧ s.hdr.layer = some .one
  | .alloc => Locked s ∧ BodyRead s ∧ s.hdr.prot = some s.crcAttached ∧ ConstructedFor s ∧ AllocProgress s
  | .scf =>
    Locked s ∧ BodyRead s ∧ s.hdr.prot = some s.crcAttached ∧ ConstructedFor s ∧ AllAlloc s ∧ ScfProgress s
  | .gate => Locked s ∧ BodyRead s ∧ s.hdr.prot = some s.crcAttached ∧ ConstructedFor s ∧ AllAlloc s ∧ AllScf s
  | .samples =>
    Locked s ∧ BodyRead s ∧ s.hdr.prot = some s.crcAttached ∧ ConstructedFor s ∧ AllAlloc s ∧ AllScf s ∧
      SampleProgress s
  | .done => Locked s ∧ BodyRead s ∧ s.hdr.prot = some s.crcAttached ∧ ConstructedFor s ∧ s.rep = 12

/-- The invariant of the reachable states. -/
structure Inv (s : State) : Prop where
  /-- what the rules say of the parameters (spec/00_scope.md R6) -/
  params : ParamsOk s.par
  /-- the stream memory has its canonical form -/
  memory : memWf s.stream.cells = true
  /-- spec/10_state.md R25 -/
  lock : LockInv s
  /-- `SBI` is 0..32 (spec/10_state.md R40) -/
  sbi : s.sbi ≤ 32
  /-- `REP` is 0..12 (spec/10_state.md R40) -/
  rep : s.rep ≤ 12
  /-- no exception has code 0 (spec/60_exceptions.md R370) -/
  faults : s.faults.getLsbD 0 = false
  /-- a table of contents has 100 bytes (spec/10_state.md R27) -/
  toc : ∀ b, s.vbr.toc = some b → b.length = 100
  /-- the checksum registers hold values exactly where an accumulator is attached (spec/10_state.md R36) -/
  crc : s.crcAttached = s.crcAcc.isSome ∧ s.crcAttached = s.crcField.isSome
  /-- between commands there is no body and no subband state (spec/10_state.md R39, spec/20_memory.md R81) -/
  quiet : s.top ≠ .busy → s.fb = [] ∧ s.sb = blankSubbands
  /-- the phase of a running command -/
  phase : s.top = .busy → PhaseInv s

/-! ### Sink events -/

/-- Inputs to sink `k` in a history. -/
def inputCount (k : SinkId) (hist : List Event) : Nat :=
  hist.countP fun e =>
    match e with
    | .skInput k' _ _ => k' == k
    | _ => false

/-- Flushes of sink `k` in a history. -/
def flushCount (k : SinkId) (hist : List Event) : Nat :=
  hist.countP fun e =>
    match e with
    | .skFlush k' => k' == k
    | _ => false

/-- `SK[1]` is enabled (spec/45_samples_sink.md R303, its table). -/
def sink1On (c : ChSel) : Bool :=
  match c with
  | .both => true
  | .left => true
  | .right => false

/-- `SK[2]` is enabled (spec/45_samples_sink.md R303, its table). -/
def sink2On (c : ChSel) (m : Mode) : Bool :=
  match m, c with
  | .singleChannel, _ => false
  | _, .both => true
  | _, .left => false
  | _, .right => true

/-- Is sink `k` enabled (spec/45_samples_sink.md R303)? -/
def sinkEnabled (k : SinkId) (c : ChSel) (m : Mode) : Bool :=
  match k with
  | .sk1 => sink1On c
  | .sk2 => sink2On c m

/-- Where a frame stands at sink `k` (spec/45_samples_sink.md R315): nothing before the sample phase; in it one input
a subband of each repetition and one flush a repetition, where the sink is enabled; at its end 384 and 12. -/
def SinkCounts (k : SinkId) (s : State) : Prop :=
  match s.phase with
  | .samples =>
    ∀ m, s.hdr.mode = some m →
      inputCount k s.hist = (if sinkEnabled k s.chsel m then 32 * s.rep + s.sbi else 0) ∧
      flushCount k s.hist = (if sinkEnabled k s.chsel m then s.rep else 0)
  | .done =>
    ∀ m, s.hdr.mode = some m →
      inputCount k s.hist = (if sinkEnabled k s.chsel m then 384 else 0) ∧
      flushCount k s.hist = (if sinkEnabled k s.chsel m then 12 else 0)
  | _ => inputCount k s.hist = 0 ∧ flushCount k s.hist = 0

/-! ### Terms of the statements -/

/-- `SK[1].Input(i, v)` where `on` (spec/20_memory.md R85): one event, one bank entry. -/
def input1 (on : Bool) (i : Nat) (v : Sample) (s : State) : State :=
  if on then { s with bank1 := s.bank1.setIfInBounds i (some v), hist := s.hist ++ [.skInput .sk1 i v] } else s

/-- `SK[2].Input(i, v)` where `on` (spec/20_memory.md R85). -/
def input2 (on : Bool) (i : Nat) (v : Sample) (s : State) : State :=
  if on then { s with bank2 := s.bank2.setIfInBounds i (some v), hist := s.hist ++ [.skInput .sk2 i v] } else s

/-- `SK[1].Flush()` where `on` (spec/20_memory.md R86, R87): one event, and the next flush vector starts empty. -/
def flush1 (on : Bool) (s : State) : State :=
  if on then { s with bank1 := Vector.replicate 32 none, hist := s.hist ++ [.skFlush .sk1] } else s

/-- `SK[2].Flush()` where `on` (spec/20_memory.md R86, R87). -/
def flush2 (on : Bool) (s : State) : State :=
  if on then { s with bank2 := Vector.replicate 32 none, hist := s.hist ++ [.skFlush .sk2] } else s

/-- `SCL(DEQ(raw, a), i)`: three roundings (spec/45_samples_sink.md R306, R313). -/
def dequantized (p : Params) (raw : BitVec 15) (a : BitVec 4) (i : BitVec 6) : Sample :=
  sampleMul p.format (sampleAdd p.format (sampleMul p.format (.number raw.toNat) (factor p a)) (offset p a)) (scale p i)

/-- A signalled channel's registers, all there. -/
def ChannelReady (p : Params) (alloc : Option (BitVec 4)) (raw : Option (BitVec 15)) (scf : Option (BitVec 6))
    (v : Sample) : Prop :=
  (alloc = some 0#4 ∧ v = .number 0) ∨
    ∃ a r i, alloc = some a ∧ a ≠ 0#4 ∧ raw = some r ∧ scf = some i ∧ v = dequantized p r a i

/-- The header's version by its two bits (spec/30_encoding.md R113). -/
def SpecVersion (bits : BitVec 2) (v : Version) : Prop :=
  (bits = 3#2 ∧ v = .mpeg1) ∨ (bits = 2#2 ∧ v = .mpeg2Lsf) ∨ (bits = 0#2 ∧ v = .mpeg25Lsf)

/-- The header's layer by its two bits, stored inverted (spec/30_encoding.md R114). -/
def SpecLayer (bits : BitVec 2) (l : Layer) : Prop :=
  (bits = 3#2 ∧ l = .one) ∨ (bits = 2#2 ∧ l = .two) ∨ (bits = 1#2 ∧ l = .three)

/-- The mode by its two bits (spec/30_encoding.md R115). -/
def specMode (bits : BitVec 2) : Mode :=
  if bits = 0#2 then .stereo
  else if bits = 1#2 then .jointStereo
  else if bits = 2#2 then .dualChannel
  else .singleChannel

/-- The ten header registers after `DECODE_FIELDS` (spec/41_header.md R191 to R200). -/
def specHeader (v : Version) (l : Layer) (t : HdrTail) : HeaderRegs where
  version := some v
  layer := some l
  prot := some (decide (t.protection = 0#1))
  bitrateIndex := some t.bitrateIndex
  srIndex := some t.sampleRateIndex
  padding := some (decide (t.padding = 1#1))
  mode := some (specMode t.channelMode)
  modeExt := some t.modeExtension
  copyright := some (decide (t.copyright = 1#1))
  original := some (decide (t.original = 1#1))

/-- R6's value of `SUBBANDS_L23`, as spec/41_header.md R203 writes it. -/
def specSubbands (m : Mode) (br : BitVec 4) (sr : BitVec 2) : Nat :=
  let cb : Int := if m = .singleChannel then br.toNat else if br = 4#4 then 1 else br.toNat - 4
  if cb = 1 ∨ cb = 2 then (if sr = 2#2 then 12 else 8)
  else if sr = 1#2 ∨ (3 ≤ cb ∧ cb ≤ 5) then 27
  else 30

/-- `BOUND` as spec/41_header.md R204 writes it. -/
def specBound (m : Mode) (ext : BitVec 2) (n : Nat) : Nat :=
  if m = .jointStereo then (if 4 + 4 * ext.toNat ≤ n then 4 + 4 * ext.toNat else n) else 0

/-- The frame length in bytes, header included: slots of 4 bytes for Layer I (spec/41_header.md R205), `FULL` for the
others (R206). -/
def specFull (p : Params) (v : Version) (l : Layer) (t : HdrTail) : Nat :=
  let pad := t.padding.toNat
  match l with
  | .one => 4 * (12 * bitrate p v .one t.bitrateIndex / freq p v t.sampleRateIndex + pad)
  | _ => 144 * bitrate p v l t.bitrateIndex / freq p v t.sampleRateIndex / (if v = .mpeg1 then 1 else 2) + pad

/-- The side-information size of spec/41_header.md R207. -/
def specSide (v : Version) (m : Mode) : Nat :=
  if v = .mpeg1 then (if m = .singleChannel then 17 else 32) else (if m = .singleChannel then 9 else 17)

/-- The geometry registers as spec/41_header.md R201 to R207 write them; `SUBBANDS_L23` is a parameter (R203). -/
def specGeometry (p : Params) (v : Version) (l : Layer) (t : HdrTail) : Geometry :=
  let m := specMode t.channelMode
  let n := if l = .one then 32 else subbandsL23 p v l t
  { subbandCount := some n
    bound := some (specBound m t.modeExtension n)
    frameSize := some (specFull p v l t - 4)
    slotCount := some
      (if l = .three then
        (specFull p v l t : Int) - specSide v m - (if t.protection = 0#1 then 2 else 0) - 4
      else 0) }

/-- The nine rows of a header without a fault, by version and layer (spec/41_header.md R212 to R220). -/
def HeaderOf (i : Instr) (v : Version) (l : Layer) (t : HdrTail) : Prop :=
  (i = .hdrM1L1 t ∧ v = .mpeg1 ∧ l = .one) ∨ (i = .hdrM1L2 t ∧ v = .mpeg1 ∧ l = .two) ∨
  (i = .hdrM1L3 t ∧ v = .mpeg1 ∧ l = .three) ∨ (i = .hdrM2L1 t ∧ v = .mpeg2Lsf ∧ l = .one) ∨
  (i = .hdrM2L2 t ∧ v = .mpeg2Lsf ∧ l = .two) ∨ (i = .hdrM2L3 t ∧ v = .mpeg2Lsf ∧ l = .three) ∨
  (i = .hdrM25L1 t ∧ v = .mpeg25Lsf ∧ l = .one) ∨ (i = .hdrM25L2 t ∧ v = .mpeg25Lsf ∧ l = .two) ∨
  (i = .hdrM25L3 t ∧ v = .mpeg25Lsf ∧ l = .three)

/-- Which body element stands next, by the sequencer's position (spec/30_encoding.md R110, R120,
spec/10_state.md R41). -/
def ElementAt (s : State) (k : Kind) : Prop :=
  (s.phase = .crcw ∧ s.hdr.prot = some true ∧ k = .c16) ∨
  (s.phase = .alloc ∧ k = .a4 ∧ ∃ n, s.geo.subbandCount = some n ∧ s.sbi < n) ∨
  (s.phase = .scf ∧ k = .s6 ∧ ∃ n e v a, s.geo.subbandCount = some n ∧ s.sbi < n ∧ s.sb[s.sbi]? = some e ∧
    e.variant = some v ∧ allocFor v s.chan e = some a ∧ a ≠ 0#4) ∨
  (s.phase = .samples ∧ s.gateOk = some true ∧ ∃ n e v a, s.geo.subbandCount = some n ∧ s.sbi < n ∧
    s.sb[s.sbi]? = some e ∧ e.variant = some v ∧ allocFor v s.chan e = some a ∧ a ≠ 0#4 ∧ k = .q (a.toNat + 1))

/-- The four bytes of the frame buffer at `x` (spec/42_vbr.md R247). -/
def bytesAt (s : State) (x : Nat) : Nat :=
  (s.fb.getD x 0#8).toNat * 2 ^ 24 + (s.fb.getD (x + 1) 0#8).toNat * 2 ^ 16 + (s.fb.getD (x + 2) 0#8).toNat * 2 ^ 8
    + (s.fb.getD (x + 3) 0#8).toNat

/-- Bits a code asks for in one repetition (spec/45_samples_sink.md R318). -/
def asked (a : Option (BitVec 4)) : Nat :=
  match a with
  | some a => if a = 0#4 then 0 else a.toNat + 1
  | none => 0

/-- `W` of spec/45_samples_sink.md R318: a `Stereo` subband counts each code, the others their one code once. -/
def askedBits (sb : Vector SubbandRegs 32) : Nat :=
  (sb.toList.map fun e => asked e.alloc1 + (if e.variant = some .stereo then asked e.alloc2 else 0)).sum

/-- A number with a 24-bit mantissa `m`, whose leading bit is set, and `k` places after the point: its sign, `m` and `k`,
for `m / 2^k`; so is every normal binary32 number of a magnitude below 2. -/
def mantissa24 (x : Sample) : Option (Bool × Nat × Nat) :=
  match x with
  | .number q =>
    let k := 23 + q.den.log2 - q.num.natAbs.log2
    let m := q.num.natAbs * 2 ^ k / q.den
    if 2 ^ 23 ≤ m ∧ m < 2 ^ 24 ∧ q.num.natAbs * 2 ^ k = m * q.den then some (decide (q.num < 0), m, k) else none
  | _ => none

/-- A sample is the 24-bit mantissa nearest to `num / den` (spec/20_memory.md R94, spec/45_samples_sink.md R313). -/
def nearestQuotient (x : Sample) (neg : Bool) (num den : Nat) : Bool :=
  match mantissa24 x with
  | none => false
  | some (sign, m, k) =>
    sign == neg && decide (2 * m * den ≤ 2 * num * 2 ^ k + den) && decide (2 * num * 2 ^ k ≤ 2 * m * den + den)

/-- A sample is the 24-bit mantissa nearest to `2^(1 - i/3)`, compared as cubes (spec/20_memory.md R93). -/
def nearestThirdPower (x : Sample) (i : Nat) : Bool :=
  match mantissa24 x with
  | none => false
  | some (sign, m, k) =>
    !sign && decide ((2 * m - 1) ^ 3 * 2 ^ i ≤ 2 ^ 3 * (2 * 2 ^ k) ^ 3) &&
      decide (2 ^ 3 * (2 * 2 ^ k) ^ 3 ≤ (2 * m + 1) ^ 3 * 2 ^ i)

/-- The transfers of spec/46_frame_loop_host.md R344 between phases of a running command. -/
def Transfer : Phase → Phase → Prop
  | .sync, q => q = .header
  | .header, q => q = .body
  | .body, q => q = .validate ∨ q = .sync
  | .validate, q => q = .crcw ∨ q = .sync
  | .crcw, q => q = .vbr
  | .vbr, q => q = .construct
  | .construct, q => q = .alloc
  | .alloc, q => q = .scf
  | .scf, q => q = .gate
  | .gate, q => q = .samples
  | .samples, q => q = .done
  | .done, _ => False

/-- The header bits spec/40_sync.md R162 calls per-frame-variable: bitrate index, padding, mode extension, copyright and
original (spec/30_encoding.md R111). -/
def FrameVariable (b : Nat) : Prop := (12 ≤ b ∧ b ≤ 15) ∨ b = 9 ∨ (4 ≤ b ∧ b ≤ 5) ∨ b = 3 ∨ b = 2

/-- A word of the stream at `p` that matches the sync predicate of the mode (spec/40_sync.md R161, R162) and lies before
the end. -/
def GoodAt (s : State) (lock : Word) (p : Nat) : Prop :=
  (∀ e, s.stream.len = some e → p + 4 ≤ e) ∧
    ((s.syncMode = .initialSync ∧ streamWord s.stream p &&& 0xFFE00000#32 = 0xFFE00000#32) ∨
      (s.syncMode = .strictSync ∧ streamWord s.stream p &&& s.par.lockMask = lock))

/-- The host's next action is `RESET`. -/
def GivesReset (s : State) : Prop := s.top ≠ .busy ∧ ∃ rest, s.host = .reset :: rest

/-! ### Safe steps -/

/-- A step from `s` is safe: it makes a next state, or it is the search that never answers on an endless stream
(spec/93_implementation_defined.md U23). No register is read while it holds "none" (spec/10_state.md R23). -/
def SafeStep (s : State) : Prop :=
  (∃ t, step s = .next t) ∨
    (step s = .fault .syncNeverAnswers ∧ s.top = .busy ∧ s.phase = .sync ∧ s.stream.len = none)

end Sys2Proof.Machine
end

