-- ==== Sys2Proof/Certificates/Slice0/Obligations.lean ====
section
/-! DEFINITION. The statements for the provers: what the spec's rules say the elements, the sequencer, the commands
and the whole machine do. -/

section

open Sys2Proof Sys2Proof.Machine

/-! ### Encoding -/

/-- spec/30_encoding.md R111, R116 to R122: the decoder reads every well-formed element back from its own bits. The
codes of versions, layers and tags are the spec's from general knowledge (log 14). -/
def Obligations.DecodeEncodeAgree : Prop :=
  ∀ i : Instr, i.wf = true → decodeWord i.kind (encode i) = .ok i

/-- spec/30_encoding.md R124: what the decoder accepts is well formed, of the format asked for, and has no other
encoding than the bits it was read from. It covers the reserved codes of decisions D4 and D5. -/
def Obligations.DecodedWordsReencode : Prop :=
  ∀ (k : Kind) (w : Word) (i : Instr), decodeWord k w = .ok i →
    i.wf = true ∧ i.kind = k ∧ (encode i).toNat = w.toNat % 2 ^ k.width

/-- spec/20_memory.md R77, R96: an element packed most significant bit first after any whole bytes is read back at its
bit offset, whatever follows. The bit order is the spec's decision D3. -/
def Obligations.ElementReadFromBytes : Prop :=
  ∀ (i : Instr) (before after : List Byte), i.wf = true →
    decodeAt i.kind (before ++ packBits i.kind.width (encode i).toNat ++ after) (8 * before.length) = .ok i

/-- spec/41_header.md R212 to R225, spec/30_encoding.md R112, R124: which row a header word is, by its own bits, the
tests in the order version, layer, sample rate, bitrate index. Layer 00 and bitrate indices 0 and 15 are rows by
decisions D4 and D5. -/
def Obligations.HeaderRowByBits : Prop :=
  ∀ w : Word,
    decodeHeader w =
      (if w &&& 0xFFE00000#32 ≠ 0xFFE00000#32 then .error .notASyncWord
       else if w.extractLsb' 19 2 = 0b01#2 then .ok (.hdrBadVer (w.extractLsb' 17 2) (headerFieldsOf w).tail)
       else if w.extractLsb' 17 2 = 0b00#2 then .ok (.hdrL0 (w.extractLsb' 19 2) (headerFieldsOf w).tail)
       else if w.extractLsb' 10 2 = 0b11#2 then
         .ok (.hdrBadRate (w.extractLsb' 19 2) (w.extractLsb' 17 2) (headerFieldsOf w).tail)
       else if w.extractLsb' 12 4 = 0b0000#4 then
         .ok (.hdrFreeFmt (w.extractLsb' 19 2) (w.extractLsb' 17 2) (headerFieldsOf w).tail)
       else if w.extractLsb' 12 4 = 0b1111#4 then
         .ok (.hdrBadBr (w.extractLsb' 19 2) (w.extractLsb' 17 2) (headerFieldsOf w).tail)
       else if w.extractLsb' 17 4 = 0b1111#4 then .ok (.hdrM1L1 (headerFieldsOf w).tail)
       else if w.extractLsb' 17 4 = 0b1110#4 then .ok (.hdrM1L2 (headerFieldsOf w).tail)
       else if w.extractLsb' 17 4 = 0b1101#4 then .ok (.hdrM1L3 (headerFieldsOf w).tail)
       else if w.extractLsb' 17 4 = 0b1011#4 then .ok (.hdrM2L1 (headerFieldsOf w).tail)
       else if w.extractLsb' 17 4 = 0b1010#4 then .ok (.hdrM2L2 (headerFieldsOf w).tail)
       else if w.extractLsb' 17 4 = 0b1001#4 then .ok (.hdrM2L3 (headerFieldsOf w).tail)
       else if w.extractLsb' 17 4 = 0b0011#4 then .ok (.hdrM25L1 (headerFieldsOf w).tail)
       else if w.extractLsb' 17 4 = 0b0010#4 then .ok (.hdrM25L2 (headerFieldsOf w).tail)
       else .ok (.hdrM25L3 (headerFieldsOf w).tail))

/-- A few words the spec writes out and the elements they stand for (spec/41_header.md R191 to R198, spec/40_sync.md
R161, spec/42_vbr.md R243, R249): a sanity statement. The codes are the spec's from general knowledge (log 14). -/
def Obligations.SpecWordsDecode : Prop :=
  decodeHeader 0xFFFE4040#32 = .ok (.hdrM1L1 ⟨0#1, 4#4, 0#2, 0#1, 0#1, 1#2, 0#2, 0#1, 0#1, 0#2⟩) ∧
  decodeHeader 0xFFE64040#32 = .ok (.hdrM25L1 ⟨0#1, 4#4, 0#2, 0#1, 0#1, 1#2, 0#2, 0#1, 0#1, 0#2⟩) ∧
  decodeHeader 0xFFFD40C0#32 = .ok (.hdrM1L2 ⟨1#1, 4#4, 0#2, 0#1, 0#1, 3#2, 0#2, 0#1, 0#1, 0#2⟩) ∧
  decodeHeader 0xFFEE4040#32 = .ok (.hdrBadVer 3#2 ⟨0#1, 4#4, 0#2, 0#1, 0#1, 1#2, 0#2, 0#1, 0#1, 0#2⟩) ∧
  decodeHeader 0xFFFE4C40#32 = .ok (.hdrBadRate 3#2 3#2 ⟨0#1, 4#4, 3#2, 0#1, 0#1, 1#2, 0#2, 0#1, 0#1, 0#2⟩) ∧
  decodeHeader 0xFFD040C0#32 = .error .notASyncWord ∧
  decodeWord .a4 0xF#32 = .ok .alloc15 ∧
  decodeWord .s6 0x3F#32 = .ok .scf63 ∧
  decodeWord (.q 15) 0x7FFF#32 = .ok (.samp15 0x7FFF#15) ∧
  decodeTag 0x58696E67#32 = .ok .xing ∧
  decodeTag 0x56425249#32 = .ok .vbri

/-! ### Reading bits -/

/-- spec/20_memory.md R77: `GetBits(n)` takes the `n` bits at `BITPOS`, the first the most significant, bit `b` being
bit `7 - b mod 8` of byte `b div 8`; `BITPOS` moves by `n` and nothing else changes but the history (log 9). The bit
order is the spec's decision D3. -/
def Obligations.GetBitsReads : Prop :=
  ∀ (n : Nat) (s : State), s.bitpos + n ≤ 8 * s.fb.length →
    ∃ v : BitVec n,
      getBits n s = some (v, { s with bitpos := s.bitpos + n, hist := s.hist ++ [.getBits n] }) ∧
      ∀ j, j < n →
        v.getLsbD (n - 1 - j) = (s.fb.getD ((s.bitpos + j) / 8) 0#8).getLsbD (7 - (s.bitpos + j) % 8)

/-- spec/20_memory.md R83, spec/60_exceptions.md R378: an element that would pass the end of the body raises
`FrameOverrun` before any change of its own, wherever a body element is read. The exception is the spec's decision D8.
-/
def Obligations.OverReadRaises : Prop :=
  ∀ (s : State) (k : Kind), s.top = .busy → ElementAt s k → 8 * s.fb.length < s.bitpos + k.width →
    step s = .next (raise .frameOverrun s)

/-! ### Commands and reset -/

/-- spec/10_state.md R45, spec/70_reset_and_hazards.md R410, spec/00_scope.md R6: the registers after reset, and the
parameters at R6's values. The spec's decisions D15 to D17 give `CHSEL`, `TOP`, `FAULTS` and `LAST`; the tables and
the checksum's parameters are the spec's from general knowledge (log 14), and the form of the number format is the
model's choice (log 29). The mask's zeros are the per-frame-variable fields (spec/40_sync.md R164); that the private
and emphasis bits are locked is decision D2. -/
def Obligations.ResetState : Prop :=
  State.reset.syncMode = .initialSync ∧ State.reset.lock = none ∧ State.reset.first = true ∧
  State.reset.vbr = ⟨false, none, none, none, none⟩ ∧ State.reset.chsel = .both ∧ State.reset.top = .idle ∧
  State.reset.phase = .sync ∧ State.reset.faults = 0#8 ∧ State.reset.last = .none ∧ State.reset.h = none ∧
  State.reset.hdr = ⟨none, none, none, none, none, none, none, none, none, none⟩ ∧
  State.reset.geo = ⟨none, none, none, none⟩ ∧ State.reset.fb = [] ∧ State.reset.bitpos = 0 ∧
  State.reset.crcAttached = false ∧ State.reset.crcField = none ∧ State.reset.crcAcc = none ∧
  State.reset.gateOk = none ∧ State.reset.sb = Vector.replicate 32 ⟨none, none, none, none, none, none, none⟩ ∧
  State.reset.sbi = 0 ∧ State.reset.rep = 0 ∧
  State.reset.par.lockMask = 0xFFFF0DC3#32 ∧
  (∀ b, b < 32 → (State.reset.par.lockMask.getLsbD b = false ↔ FrameVariable b)) ∧ State.reset.par.resyncAdvance = 4 ∧
  State.reset.par.strictValidate = .lookahead ∧ State.reset.par.xingFlags = .standard ∧
  1725 ≤ State.reset.par.frameBufCap ∧ State.reset.par.crc = ⟨0x8005#16, 0xFFFF#16, false, false, 0#16⟩ ∧
  State.reset.par.format = .binary ⟨8, 23, .nearestEven⟩ ∧ State.reset.par.subbandsL23 = .rule203 ∧ State.reset.par.bitrate.mpeg1.one[4] = 128000 ∧
  State.reset.par.freq.mpeg1 = #v[44100, 48000, 32000]

/-- spec/46_frame_loop_host.md R341: `RESET` in any state between commands puts every register of the block at its
reset value and leaves the reader, the sinks and the parameters. That the event history and the model's own fields are
at their reset values too is the model's choice (log 6, log 7, log 9, log 23). -/
def Obligations.ResetCommand : Prop :=
  ∀ (s : State) (rest : List HostAction), s.top ≠ .busy → s.host = .reset :: rest →
    step s =
      .next { State.reset with
        stream := s.stream, pos := s.pos, io := s.io, bank1 := s.bank1, bank2 := s.bank2
        host := rest, par := s.par, fresh := s.fresh }

/-- spec/46_frame_loop_host.md R342, R348: `SET_CHANNELS(c)` writes `CHSEL` and `LAST <- Ok` in `IDLE`; in `HALTED` it
is refused. The refusal in `HALTED` is the spec's decision D16. -/
def Obligations.SetChannelsResult : Prop :=
  ∀ (s : State) (c : ChSel) (rest : List HostAction), s.host = .setChannels c :: rest →
    (s.top = .idle → step s = .next { s with chsel := c, last := .ok, host := rest }) ∧
    (s.top = .halted → step s = .next { s with last := .exc (.refused .halted), host := rest })

/-- spec/46_frame_loop_host.md R343: `DECODE_FRAME` in `IDLE` makes the block `BUSY` at `P_SYNC` with every
frame-scoped register at its reset value and every cross-frame register kept. That the history and the sinks' flush
vectors begin empty, and the channel and the probe at their start, is the model's choice (spec/20_memory.md R87, R100;
log 6, log 7, log 9, log 21). -/
def Obligations.DecodeFrameStarts : Prop :=
  ∀ (s : State) (rest : List HostAction), s.top = .idle → s.host = .decodeFrame :: rest →
    step s =
      .next { s with
        top := .busy, phase := .sync, host := rest, h := none
        hdr := ⟨none, none, none, none, none, none, none, none, none, none⟩, geo := ⟨none, none, none, none⟩
        fb := [], bitpos := 0, crcAttached := false, crcField := none, crcAcc := none, gateOk := none
        sb := Vector.replicate 32 ⟨none, none, none, none, none, none, none⟩, sbi := 0, rep := 0, chan := .ch1
        bank1 := Vector.replicate 32 none, bank2 := Vector.replicate 32 none, hist := [], probe := .start }

/-- spec/46_frame_loop_host.md R348, spec/60_exceptions.md R380: in `HALTED` the two commands other than `RESET`
change nothing but `LAST`. While a command runs the host's actions wait, and it reads nothing; between commands it
reads the outcome, the Header with the checksum field, and what an exception leaves (spec/20_memory.md R88,
spec/41_header.md R211, spec/60_exceptions.md R371). With no action pending nothing happens (log 2). Attaching a
stream gives the reader its bytes, its end and its position, and moving the reader the position, and they change
nothing else (spec/20_memory.md R74, spec/70_reset_and_hazards.md R411, R423); their form is the model's choice (log
3), and so are the zeros of an endless stream after the given bytes (log 4). The refusal in `HALTED` is the spec's
decision D16. That `PHASE`, `SBI`, `REP`, `BITPOS` and `CRC_ACC` can be read after every command, and `GATE_OK` after
one that an exception ended, is the model's choice (log 30). -/
def Obligations.CommandsOutOfPlace : Prop :=
  (∀ (s : State) (a : HostAction) (rest : List HostAction), s.top = .halted → s.host = a :: rest →
    (a = .decodeFrame ∨ ∃ c, a = .setChannels c) →
      step s = .next { s with last := .exc (.refused .halted), host := rest }) ∧
  (∀ s t : State, s.top = .busy → step s = .next t → t.host = s.host) ∧
  (∀ s : State, s.top ≠ .busy → s.host = [] → step s = .next s) ∧
  (∀ (s : State) (bytes : List Byte) (endless : Bool) (p : Nat) (rest : List HostAction), s.top ≠ .busy →
    s.host = .attach bytes endless p :: rest →
    ∃ cells, step s =
        .next { s with
          stream := { cells := cells, len := if endless = true then none else some bytes.length }, pos := p
          host := rest } ∧
      memWf cells = true ∧ (∀ (a : Nat) (ha : a < bytes.length), memRead cells a = bytes[a]) ∧
      ∀ a, bytes.length ≤ a → memRead cells a = 0#8) ∧
  (∀ (s : State) (p : Nat) (rest : List HostAction), s.top ≠ .busy → s.host = .moveReader p :: rest →
    step s = .next { s with pos := p, host := rest }) ∧
  (∀ s : State, (s.top = .busy → hostView s = none) ∧
    (s.top ≠ .busy → ∃ v, hostView s = some v ∧ v.last = s.last ∧ v.faults = s.faults ∧ v.h = s.h ∧ v.hdr = s.hdr ∧
      v.geo = s.geo ∧ v.vbr = s.vbr ∧ v.crcAttached = s.crcAttached ∧ v.crcField = s.crcField ∧ v.crcAcc = s.crcAcc ∧
      v.gateOk = s.gateOk ∧ v.phase = s.phase ∧ v.sbi = s.sbi ∧ v.rep = s.rep ∧ v.bitpos = s.bitpos))

/-! ### A step runs the element at the sequencer's position -/

/-- spec/10_state.md R41, spec/30_encoding.md R120: at `P_HEADER` a step is `exec` of the header word's element; where
a body element stands, a step takes its bits, moves `BITPOS` past them and is `exec` of it; where the probe finds its
tag, a step is `exec` of the tag. That this is one step, and that the history holds the read, is the model's choice
(log 1, log 9). The two offsets are those of spec/42_vbr.md R242, R243, R248, R249; the Xing offsets by version and
mode are the spec's from general knowledge (log 14). -/
def Obligations.StepRunsElement : Prop :=
  (∀ (s : State) (w : Word) (i : Instr), s.top = .busy → s.phase = .header → s.h = some w → decodeHeader w = .ok i →
    step s = exec i s) ∧
  (∀ (s : State) (k : Kind) (i : Instr), s.top = .busy → ElementAt s k → decodeAt k s.fb s.bitpos = .ok i →
    step s = exec i { s with bitpos := s.bitpos + k.width, hist := s.hist ++ [.getBits k.width] }) ∧
  (∀ (s : State) (v : Version) (m : Mode), s.top = .busy → s.phase = .vbr → s.probe = .xing →
    s.hdr.version = some v → s.hdr.mode = some m → specSide v m + 4 ≤ s.fb.length →
    bytesAt s (specSide v m) = 0x58696E67 → step s = exec .xing s) ∧
  (∀ s : State, s.top = .busy → s.phase = .vbr → s.probe = .vbri → 36 ≤ s.fb.length →
    bytesAt s 32 = 0x56425249 → step s = exec .vbri s)

/-! ### Header words -/

/-- spec/41_header.md R190 to R207, R212 to R220: the nine rows of a header without a fault write the ten header
registers and the geometry, and the body is read next; nothing else changes. `HDR.M1.L1`, `HDR.M2.L1` and `HDR.M25.L1`
write the geometry of Layer I, the six rows of layers 2 and 3 that of their layer, from the tables that the
configuration holds. The codes and the side-information sizes are the spec's from general knowledge (log 14).
Two values are the model's choice, met only by a configuration whose rates are not R6's. A frame length below 4, for
which R205 and R206 give a negative value, gives `FRAME_SIZE` 0 (log 31, DESIGN CHOICE); a frequency of 0, for which
their quotients have no value, gives the quotient 0 (log 15, DESIGN CHOICE). -/
def Obligations.HeaderResult : Prop :=
  (∀ (i : Instr) (v : Version) (t : HdrTail) (s : State), HeaderOf i v .one t → i.wf = true →
    exec i s =
      .next { s with
        hdr := specHeader v .one t
        geo :=
          { subbandCount := some 32
            bound := some (if t.channelMode = 1#2 then 4 + 4 * t.modeExtension.toNat else 0)
            frameSize := some
              (4 * (12 * bitrate s.par v .one t.bitrateIndex / freq s.par v t.sampleRateIndex + t.padding.toNat) - 4)
            slotCount := some 0 }
        phase := .body }) ∧
  (∀ (i : Instr) (v : Version) (l : Layer) (t : HdrTail) (s : State), HeaderOf i v l t → l ≠ .one → i.wf = true →
    exec i s = .next { s with hdr := specHeader v l t, geo := specGeometry s.par v l t, phase := .body })

/-- spec/41_header.md R221 to R225, spec/60_exceptions.md R381: the five rows with a fault raise the exception of the
first failing test, with the header registers written up to it. `HDR.FREEFMT` and `HDR.BADBR` have written all ten.
That `HDR.L0` ends the command so is the spec's decision D4, that `HDR.FREEFMT` and `HDR.BADBR` do is its decision D5;
for `HDR.BADVER` and `HDR.BADRATE` it is no decision (R191, R195). The header and geometry registers that the failing
test comes before keep the values they had: that an earlier candidate of the same command leaves its values there is
the model's inference (log 26, DEDUCED, unsafe). The codes of versions and layers are the spec's from general
knowledge (log 14). -/
def Obligations.HeaderFaultsRaise : Prop :=
  (∀ (l : BitVec 2) (t : HdrTail) (s : State),
    exec (.hdrBadVer l t) s = .next (raise (.unsupported .badVersion) s)) ∧
  (∀ (vb : BitVec 2) (v : Version) (t : HdrTail) (s : State), SpecVersion vb v →
    exec (.hdrL0 vb t) s =
      .next (raise (.unsupported .reservedLayer) { s with hdr := { s.hdr with version := some v } })) ∧
  (∀ (vb lb : BitVec 2) (v : Version) (l : Layer) (t : HdrTail) (s : State), SpecVersion vb v → SpecLayer lb l →
    t.sampleRateIndex = 3#2 →
    exec (.hdrBadRate vb lb t) s =
      .next (raise (.unsupported .reservedSampleRate)
        { s with
          hdr := { s.hdr with
            version := some v, layer := some l, prot := some (decide (t.protection = 0#1))
            bitrateIndex := some t.bitrateIndex } })) ∧
  (∀ (vb lb : BitVec 2) (v : Version) (l : Layer) (t : HdrTail) (s : State), SpecVersion vb v → SpecLayer lb l →
    t.sampleRateIndex ≠ 3#2 → t.bitrateIndex = 0#4 →
    exec (.hdrFreeFmt vb lb t) s = .next (raise (.refused .badBitrateIndex) { s with hdr := specHeader v l t })) ∧
  (∀ (vb lb : BitVec 2) (v : Version) (l : Layer) (t : HdrTail) (s : State), SpecVersion vb v → SpecLayer lb l →
    t.sampleRateIndex ≠ 3#2 → t.bitrateIndex = 15#4 →
    exec (.hdrBadBr vb lb t) s = .next (raise (.refused .badBitrateIndex) { s with hdr := specHeader v l t }))

/-- What a header word of any of the fourteen rows leaves alone (spec/41_header.md R190, spec/60_exceptions.md R371): it
either completes, changing the header registers, the geometry and the phase, or raises, changing the header registers
and what `raise` writes. Every byte of the stream reads as before. -/
def Obligations.HeaderFrame : Prop :=
  ∀ (i : Instr) (f : HdrFields) (s t : State), i.headerFields = some f → exec i s = .next t →
    (t = { s with hdr := t.hdr, geo := t.geo, phase := .body } ∨
      t = { s with
        hdr := t.hdr, fb := [], sb := t.sb, hist := t.hist, faults := t.faults, last := t.last, top := .halted }) ∧
    ∀ a, memRead t.stream.cells a = memRead s.stream.cells a

/-- spec/41_header.md R205, R206, R210, spec/10_state.md R34, spec/20_memory.md R76, spec/00_scope.md R6: every `FRAME_SIZE`
of R6's tables is at least 20, fits 11 bits and the least frame buffer R6 allows. The tables are the spec's from general
knowledge (log 14). -/
def Obligations.FrameSizeRange : Prop :=
  ∀ (v : Version) (l : Layer) (t : HdrTail), t.bitrateIndex ≠ 0#4 → t.bitrateIndex ≠ 15#4 → t.sampleRateIndex ≠ 3#2 →
    ∃ n, (geometryOf Config.defaultParams v l t).frameSize = some n ∧ 20 ≤ n ∧ n < 2 ^ 11 ∧ n ≤ 1725

/-- spec/41_header.md R204, spec/30_encoding.md R115: `BOUND` is `4 + 4*MODE_EXT` clamped to `SUBBAND_COUNT` for
`JOINT_STEREO`, channel mode code 1, else 0; so `BOUND ≤ SUBBAND_COUNT ≤ 32` for every header, and for Layer I the
clamp never acts. The hypothesis is that the parameter `SUBBANDS_L23` gives no more than 32, as R6's value does (log
15). The mode's code is the spec's from general knowledge (log 14). -/
def Obligations.BoundWithinCount : Prop :=
  ∀ (p : Params) (v : Version) (l : Layer) (t : HdrTail),
    (∀ t' : HdrTail, subbandsL23 p v l t' ≤ 32) →
    ∃ n b, (geometryOf p v l t).subbandCount = some n ∧ (geometryOf p v l t).bound = some b ∧
      b = (if t.channelMode = 1#2 then min (4 + 4 * t.modeExtension.toNat) n else 0) ∧ b ≤ n ∧ n ≤ 32 ∧
      (l = .one → n = 32 ∧ b = (if t.channelMode = 1#2 then 4 + 4 * t.modeExtension.toNat else 0))

/-! ### The checksum -/

/-- spec/43_crc.md R261, R264: `CRC.ADD(v, n)` is `n` shift steps with the generator, most significant bit first, and
feeding two bit groups one after another is feeding their concatenation; for every generator, where bits are fed in that
order, as R261 has them. The shift step is the spec's from general knowledge (log 14). -/
def Obligations.CrcAddLoop : Prop :=
  ∀ c : CrcParams, c.reflectIn = false →
    (∀ (acc : BitVec 16) (v n : Nat),
      crcAdd c acc v n =
        (List.range n).foldl
          (fun x j =>
            let b := v / 2 ^ (n - 1 - j) % 2
            let msb := x.toNat / 2 ^ 15
            let shifted := BitVec.ofNat 16 (2 * x.toNat)
            if msb + b = 1 then shifted ^^^ c.poly else shifted)
          acc) ∧
    (∀ (acc : BitVec 16) (a b m n : Nat), b < 2 ^ n →
      crcAdd c (crcAdd c acc a m) b n = crcAdd c acc (a * 2 ^ n + b) (m + n))

/-- spec/41_header.md R210, spec/43_crc.md R262, R263: `CRCW` stores the field, starts the accumulator from the header's
final 16 bits and attaches it. Nothing else changes but the phase. -/
def Obligations.CrcwResult : Prop :=
  ∀ (field : BitVec 16) (h : Word) (s : State), s.h = some h →
    exec (.crcw field) s =
      .next { s with
        crcField := some field, crcAcc := some (crcAdd s.par.crc s.par.crc.init (h.toNat % 2 ^ 16) 16), crcAttached := true
        phase := .vbr }

/-- spec/41_header.md R210: `READ_CRCW` as a step at `P_CRCW`: in a protected frame the 16 bits at `BITPOS` become
`CRC_FIELD` and the accumulator is seeded and attached; in an unprotected one none is. That a body with fewer than 16
bits raises `FrameOverrun` is the spec's decision D8 (spec/20_memory.md R83), the bit order of the field D3 (R77);
that the history holds the read is the model's choice (log 9). -/
def Obligations.ReadChecksumField : Prop :=
  ∀ (s : State) (p : Bool) (h : Word), s.top = .busy → s.phase = .crcw → s.hdr.prot = some p → s.h = some h →
    (p = true → s.bitpos + 16 ≤ 8 * s.fb.length →
      step s =
        .next { s with
          bitpos := s.bitpos + 16, hist := s.hist ++ [.getBits 16]
          crcField := some (bitsAt s.fb s.bitpos 16)
          crcAcc := some (crcAdd s.par.crc s.par.crc.init (h.toNat % 2 ^ 16) 16), crcAttached := true, phase := .vbr }) ∧
    (p = true → 8 * s.fb.length < s.bitpos + 16 → step s = .next (raise .frameOverrun s)) ∧
    (p = false → step s = .next { s with crcAttached := false, phase := .vbr })

/-! ### Allocation codes -/

/-- spec/44_alloc_scf.md R272, R274 to R277: `ALLOC.0` to `ALLOC.14` store the code for the channel that is read, fold
it where an accumulator is attached, and the next code is that of channel 2 of a `Stereo` subband, else of the next
subband. Nothing else changes. The place of a second code is the spec's decision D9. -/
def Obligations.AllocStored : Prop :=
  ∀ (i : Instr) (a : BitVec 4) (s : State) (e : SubbandRegs) (v : Variant),
    i.allocCode = some a → a ≠ 15#4 → s.sb[s.sbi]? = some e → e.variant = some v →
    (s.crcAttached = true → s.crcAcc ≠ none) →
    exec i s =
      .next { s with
        sb := s.sb.setIfInBounds s.sbi
          (if s.chan = .ch1 then { e with alloc1 := some a } else { e with alloc2 := some a })
        crcAcc := if s.crcAttached = true then s.crcAcc.map (fun c => crcAdd s.par.crc c a.toNat 4) else s.crcAcc
        chan := if s.chan = .ch1 ∧ v = .stereo then .ch2 else .ch1
        sbi := if s.chan = .ch1 ∧ v = .stereo then s.sbi else s.sbi + 1 }

/-- spec/44_alloc_scf.md R273, spec/60_exceptions.md R375: `ALLOC.15` raises `IllegalAllocation(SBI, channel)`: the
frame is abandoned and the body consumed, the code is neither stored nor folded, and every cross-frame register keeps
its value but `FAULTS` and `LAST`. The code, `FAULTS`, `LAST` and `TOP` are the spec's decisions D27, D17 and D16
(R370). -/
def Obligations.AllocReserved : Prop :=
  ∀ s : State,
    exec .alloc15 s =
      .next { s with
        fb := []
        hist := if s.fb = [] then s.hist else s.hist ++ [.rdClose]
        sb := Vector.replicate 32 ⟨none, none, none, none, none, none, none⟩
        faults := s.faults ||| 0x08#8
        last := .exc (.illegalAllocation s.sbi s.chan)
        top := .idle }

/-- What an allocation code leaves alone: a legal one changes `CRC_ACC`, the entry at `SBI` and the loop counter only;
`ALLOC.15` what `raise` writes only. Every byte of the stream reads as before. -/
def Obligations.AllocFrame : Prop :=
  ∀ (i : Instr) (a : BitVec 4) (s t : State), i.allocCode = some a → exec i s = .next t →
    (a ≠ 15#4 → t = { s with crcAcc := t.crcAcc, sb := t.sb, chan := t.chan, sbi := t.sbi } ∧
      ∀ j, j ≠ s.sbi → t.sb[j]? = s.sb[j]?) ∧
    (a = 15#4 →
      t = { s with fb := [], hist := t.hist, sb := t.sb, faults := t.faults, last := t.last, top := .idle }) ∧
    ∀ x, memRead t.stream.cells x = memRead s.stream.cells x

/-! ### Scale-factor indices -/

/-- spec/44_alloc_scf.md R280 to R284: `SCF` and `SCF.63` store the index for the channel that is read; the next slot
is channel 2 of a `Stereo` or `ISX` subband, else the next subband. The checksum and everything else keep their
values. The order of the two indices is the spec's decision D9. -/
def Obligations.ScfStored : Prop :=
  ∀ (i : Instr) (x : BitVec 6) (s : State) (e : SubbandRegs) (v : Variant),
    i.scfIndex = some x → s.sb[s.sbi]? = some e → e.variant = some v →
    exec i s =
      .next { s with
        sb := s.sb.setIfInBounds s.sbi
          (if s.chan = .ch1 then { e with scf1 := some x } else { e with scf2 := some x })
        chan := if s.chan = .ch1 ∧ v ≠ .mono then .ch2 else .ch1
        sbi := if s.chan = .ch1 ∧ v ≠ .mono then s.sbi else s.sbi + 1 }

/-- What a scale-factor index leaves alone: all but the entry at `SBI` and the loop counter. Every byte of the stream
reads as before. -/
def Obligations.ScfFrame : Prop :=
  ∀ (i : Instr) (x : BitVec 6) (s t : State), i.scfIndex = some x → exec i s = .next t →
    t = { s with sb := t.sb, chan := t.chan, sbi := t.sbi } ∧
    (∀ j, j ≠ s.sbi → t.sb[j]? = s.sb[j]?) ∧
    ∀ a, memRead t.stream.cells a = memRead s.stream.cells a

/-! ### Sample codes -/

/-- spec/45_samples_sink.md R304, R305: a sample code of channel 1 of a `Stereo` subband, `SAMP.2` to `SAMP.15`, is stored
and channel 2 is next; nothing is sent. -/
def Obligations.SampleFirstOfStereo : Prop :=
  ∀ (i : Instr) (n : Nat) (r : BitVec 15) (s : State) (e : SubbandRegs),
    i.sampleCode = some (n, r) → s.sb[s.sbi]? = some e → e.variant = some .stereo → s.chan = .ch1 →
    exec i s = .next { s with sb := s.sb.setIfInBounds s.sbi { e with raw1 := some r }, chan := .ch2 }

/-- spec/45_samples_sink.md R305 to R307: a sample code of a `Mono` subband, `SAMP.2` to `SAMP.15`, is stored,
dequantized, scaled and sent to sink 1 where it is enabled; the next subband is next. The arithmetic is the spec's
decision D12. -/
def Obligations.SampleOfMono : Prop :=
  ∀ (i : Instr) (n : Nat) (r : BitVec 15) (a : BitVec 4) (x : BitVec 6) (m : Mode) (s : State) (e : SubbandRegs),
    i.sampleCode = some (n, r) → s.sb[s.sbi]? = some e → e.variant = some .mono → s.chan = .ch1 →
    e.alloc1 = some a → n = a.toNat + 1 → e.scf1 = some x → s.gateOk = some true → s.hdr.mode = some m →
    exec i s =
      .next (input1 (sink1On s.chsel) s.sbi (dequantized s.par r a x)
        { s with sb := s.sb.setIfInBounds s.sbi { e with raw1 := some r }, sbi := s.sbi + 1 })

/-- spec/45_samples_sink.md R305, R306, R308: a sample code of channel 2 of a `Stereo` subband, `SAMP.2` to `SAMP.15`,
is stored, and the two channels, each scaled by its own index, go to the enabled sinks, sink 1 first; the next subband
is next. The order of the sinks is the spec's decision D10, the arithmetic D12. -/
def Obligations.SampleSecondOfStereo : Prop :=
  ∀ (i : Instr) (n : Nat) (r : BitVec 15) (a : BitVec 4) (x : BitVec 6) (m : Mode) (v1 : Sample) (s : State)
    (e : SubbandRegs),
    i.sampleCode = some (n, r) → s.sb[s.sbi]? = some e → e.variant = some .stereo → s.chan = .ch2 →
    ChannelReady s.par e.alloc1 e.raw1 e.scf1 v1 →
    e.alloc2 = some a → n = a.toNat + 1 → e.scf2 = some x → s.gateOk = some true → s.hdr.mode = some m →
    exec i s =
      .next (input2 (sink2On s.chsel m) s.sbi (dequantized s.par r a x)
        (input1 (sink1On s.chsel) s.sbi v1
          { s with
            sb := s.sb.setIfInBounds s.sbi { e with raw2 := some r }, chan := .ch1, sbi := s.sbi + 1 }))

/-- spec/45_samples_sink.md R305, R306, R309: a sample code of an `ISX` subband, `SAMP.2` to `SAMP.15`, is stored, and
the one dequantized value, scaled once by each index, goes to the enabled sinks, sink 1 first; the next subband is
next. The order of the sinks is the spec's decision D10, the arithmetic D12. -/
def Obligations.SampleOfIsx : Prop :=
  ∀ (i : Instr) (n : Nat) (r : BitVec 15) (a : BitVec 4) (x y : BitVec 6) (m : Mode) (s : State) (e : SubbandRegs),
    i.sampleCode = some (n, r) → s.sb[s.sbi]? = some e → e.variant = some .isx → s.chan = .ch1 →
    e.alloc1 = some a → n = a.toNat + 1 → e.scf1 = some x → e.scf2 = some y → s.gateOk = some true →
    s.hdr.mode = some m →
    exec i s =
      .next (input2 (sink2On s.chsel m) s.sbi (dequantized s.par r a y)
        (input1 (sink1On s.chsel) s.sbi (dequantized s.par r a x)
          { s with sb := s.sb.setIfInBounds s.sbi { e with raw1 := some r }, sbi := s.sbi + 1 }))

/-- spec/45_samples_sink.md R302, R305, R310: where no code is read, because the gate is closed or the channel is not
signalled, the turn ends with nothing read: channel 1 of a `Stereo` subband hands over to channel 2; else each enabled
sink receives the subband's value, +0 for a channel that is not signalled and for every channel of a closed gate. The
order of the sinks is the spec's decision D10. -/
def Obligations.SilentTurn : Prop :=
  ∀ (s : State) (n : Nat) (e : SubbandRegs) (v : Variant) (g : Bool) (m : Mode),
    s.top = .busy → s.phase = .samples → s.geo.subbandCount = some n → s.sbi < n → s.sb[s.sbi]? = some e →
    e.variant = some v → s.gateOk = some g → s.hdr.mode = some m →
    (v = .stereo → s.chan = .ch1 → (g = false ∨ e.alloc1 = some 0#4) → step s = .next { s with chan := .ch2 }) ∧
    (g = false → v = .mono →
      step s = .next (input1 (sink1On s.chsel) s.sbi (.number 0) { s with chan := .ch1, sbi := s.sbi + 1 })) ∧
    (g = false → (v = .isx ∨ (v = .stereo ∧ s.chan = .ch2)) →
      step s =
        .next (input2 (sink2On s.chsel m) s.sbi (.number 0)
          (input1 (sink1On s.chsel) s.sbi (.number 0) { s with chan := .ch1, sbi := s.sbi + 1 }))) ∧
    (g = true → v = .mono → s.chan = .ch1 → e.alloc1 = some 0#4 →
      step s = .next (input1 (sink1On s.chsel) s.sbi (.number 0) { s with sbi := s.sbi + 1 })) ∧
    (g = true → v = .isx → s.chan = .ch1 → e.alloc1 = some 0#4 →
      step s =
        .next (input2 (sink2On s.chsel m) s.sbi (.number 0)
          (input1 (sink1On s.chsel) s.sbi (.number 0) { s with sbi := s.sbi + 1 }))) ∧
    (∀ v1, g = true → v = .stereo → s.chan = .ch2 → e.alloc2 = some 0#4 → ChannelReady s.par e.alloc1 e.raw1 e.scf1 v1 →
      step s =
        .next (input2 (sink2On s.chsel m) s.sbi (.number 0)
          (input1 (sink1On s.chsel) s.sbi v1 { s with chan := .ch1, sbi := s.sbi + 1 })))

/-- What a sample code leaves alone: all but the raw codes of the entry at `SBI`, the loop counter, the sinks' inputs and
the history, which only grows by inputs of this subband. Every byte of the stream reads as before. -/
def Obligations.SampleFrame : Prop :=
  ∀ (i : Instr) (n : Nat) (r : BitVec 15) (s t : State), i.sampleCode = some (n, r) → exec i s = .next t →
    t = { s with sb := t.sb, hist := t.hist, bank1 := t.bank1, bank2 := t.bank2, chan := t.chan, sbi := t.sbi } ∧
    (∀ j, j ≠ s.sbi → t.sb[j]? = s.sb[j]?) ∧
    (∀ e f, s.sb[s.sbi]? = some e → t.sb[s.sbi]? = some f → f = { e with raw1 := f.raw1, raw2 := f.raw2 }) ∧
    (∃ l, t.hist = s.hist ++ l ∧ ∀ x ∈ l, ∃ k v, x = .skInput k s.sbi v) ∧
    (∀ j, j ≠ s.sbi → t.bank1[j]? = s.bank1[j]? ∧ t.bank2[j]? = s.bank2[j]?) ∧
    ∀ a, memRead t.stream.cells a = memRead s.stream.cells a

/-- The worked values the spec prints: checksums (spec/43_crc.md R263, R264, R267), dequantized and scaled samples
(spec/45_samples_sink.md R306 to R309, R313), with R6's parameters. A sanity statement; its constants are the spec's from
general knowledge (log 14). -/
def Obligations.WorkedValues : Prop :=
  let d := Config.defaultParams
  let c := d.crc
  crcSeed c 0xFFFE4040#32 = 0x8188#16 ∧
  crcAdd c 0xFFFF#16 0x40C0 16 = 0x028B#16 ∧
  (List.replicate 32 0).foldl (fun x a => crcAdd c x a 4) 0x028B#16 = 0x0435#16 ∧
  [0x31, 0x32, 0x33, 0x34, 0x35, 0x36, 0x37, 0x38, 0x39].foldl (fun x b => crcAdd c x b 8) 0xFFFF#16 = 0xAEE7#16 ∧
  crcAdd c 0xFFFF#16 1 1 = 0xFFFE#16 ∧ crcAdd c 0xFFFF#16 0 1 = 0x7FFB#16 ∧ crcAdd c 0x0000#16 1 1 = 0x8005#16 ∧
  crcAdd c 0x0000#16 0 16 = 0x0000#16 ∧ crcAdd c 0xFFFF#16 0 4 = 0xFFD2#16 ∧ crcAdd c 0x8188#16 2 4 = 0x18BC#16 ∧
  dequantized d 0#15 1#4 4#6 = single 0xBF07754E#32 ∧ dequantized d 1#15 1#4 4#6 = single 0#32 ∧
  dequantized d 2#15 1#4 4#6 = single 0x3F07754E#32 ∧ dequantized d 3#15 1#4 4#6 = single 0x3F87754D#32 ∧
  deq d 3#15 2#4 = single 0x33800000#32 ∧ deq d 7#15 3#4 = single 0x33800000#32 ∧ deq d 127#15 7#4 = single 0x33800000#32 ∧
  deq d 1#15 1#4 = single 0#32 ∧ deq d 16383#15 14#4 = single 0#32 ∧
  dequantized d 0#15 2#4 3#6 = single 0xBF5B6DB7#32 ∧ dequantized d 15#15 3#4 6#6 = single 0x3F088888#32 ∧
  dequantized d 0#15 4#4 0#6 = single 0xBFF7BDEF#32 ∧ dequantized d 0#15 4#4 12#6 = single 0xBDF7BDEF#32 ∧
  (List.range 14).map (fun a => factor d (BitVec.ofNat 4 (a + 1))) =
    [0x3F2AAAAB#32, 0x3E924925#32, 0x3E088889#32, 0x3D842108#32, 0x3D020821#32, 0x3C810204#32, 0x3C008081#32,
      0x3B804020#32, 0x3B002008#32, 0x3A801002#32, 0x3A000801#32, 0x39800400#32, 0x39000200#32, 0x38800100#32].map single ∧
  (List.range 14).map (fun a => offset d (BitVec.ofNat 4 (a + 1))) =
    [0xBF2AAAAB#32, 0xBF5B6DB7#32, 0xBF6EEEEF#32, 0xBF77BDEF#32, 0xBF7BEFBF#32, 0xBF7DFBF8#32, 0xBF7EFEFF#32,
      0xBF7F7FC0#32, 0xBF7FBFF0#32, 0xBF7FDFFC#32, 0xBF7FEFFF#32, 0xBF7FF800#32, 0xBF7FFC00#32, 0xBF7FFE00#32].map single

/-- spec/45_samples_sink.md R313: `rnd` with rounding to nearest even takes a natural nearest to `m / unit`, and of two
equally near the even one, and every rounding is exact where the quotient is; in binary32 it gives, for an exact result
from `2^-126` to `2^127` in magnitude, a number with a 24-bit mantissa that is off by half a unit of its last bit at
most; for exact rationals it is the identity, in the operations too. The arithmetic is the spec's decision D12, which
names both formats. -/
def Obligations.RoundToNearestEven : Prop :=
  (∀ (negative : Bool) (m unit : Nat), 0 < unit →
    (unit ∣ m → ∀ mode, roundQuotient mode negative m unit * unit = m) ∧
    2 * m ≤ 2 * (roundQuotient .nearestEven negative m unit * unit) + unit ∧
    2 * (roundQuotient .nearestEven negative m unit * unit) ≤ 2 * m + unit ∧
    (2 * m = 2 * (roundQuotient .nearestEven negative m unit * unit) + unit ∨
      2 * (roundQuotient .nearestEven negative m unit * unit) = 2 * m + unit →
        roundQuotient .nearestEven negative m unit % 2 = 0)) ∧
  (∀ (zeroNegative : Bool) (q : Rat), (2 : Rat) ^ (-126 : Int) ≤ |q| → |q| < (2 : Rat) ^ (127 : Int) →
    ∃ (r : Rat) (m : Nat) (e : Int), rnd (.binary binary32) zeroNegative q = .number r ∧ 2 ^ 23 ≤ m ∧ m ≤ 2 ^ 24 ∧
      |r| = m * (2 : Rat) ^ e ∧ 2 * |r - q| ≤ (2 : Rat) ^ e) ∧
  (∀ a b : Rat, sampleMul .exact (.number a) (.number b) = .number (a * b) ∧
    sampleAdd .exact (.number a) (.number b) = .number (a + b))

/-- spec/20_memory.md R93, R94, spec/41_header.md R203, spec/45_samples_sink.md R313: of R6's tables, the dequantizer's
entries are the binary32 nearest to the exact values, `2/(2^n-1)` and `(2-2^n)/(2^n-1)` for `n = a + 1`, and
`2^(1-i/3)`, compared as cubes; in exact rationals the same tables dequantize to `(2*raw+2-2^n)/(2^n-1)`; and
`SUBBANDS_L23` is the rule's, and any function of the header word where the configuration has another (log 15). The
tables are the spec's from general knowledge (log 14). -/
def Obligations.TablesRounded : Prop :=
  let d := Config.defaultParams
  (∀ a : BitVec 4, a ≠ 0#4 → a ≠ 15#4 →
    nearestQuotient (factor d a) false 2 (2 ^ (a.toNat + 1) - 1) = true ∧
    nearestQuotient (offset d a) true (2 ^ (a.toNat + 1) - 2) (2 ^ (a.toNat + 1) - 1) = true) ∧
  (∀ i : BitVec 6, i ≠ 63#6 → nearestThirdPower (scale d i) i.toNat = true) ∧
  scale d 63#6 = .number 0 ∧
  (∀ (p : Params) (raw : BitVec 15) (a : BitVec 4), p.format = .exact → p.factor = d.factor → p.offset = d.offset →
    a ≠ 0#4 → a ≠ 15#4 →
    deq p raw a = .number ((2 * raw.toNat + 2 - 2 ^ (a.toNat + 1)) / (2 ^ (a.toNat + 1) - 1))) ∧
  (∀ (v : Version) (l : Layer) (t : HdrTail), t.sampleRateIndex ≠ 3#2 →
    subbandsL23 d v l t = specSubbands (specMode t.channelMode) t.bitrateIndex t.sampleRateIndex) ∧
  (∀ (p : Params) (rows : List SubbandRow) (otherwise : Nat) (h : Word) (v : Version) (l : Layer),
    p.subbandsL23 = .table rows otherwise → h &&& 0xFFE00000#32 = 0xFFE00000#32 →
    SpecVersion (h.extractLsb' 19 2) v → SpecLayer (h.extractLsb' 17 2) l →
    subbandsL23 p v l (headerFieldsOf h).tail =
      ((rows.filter fun r => decide (h &&& r.mask = r.bits)).map SubbandRow.count).headD otherwise)

/-- spec/44_alloc_scf.md R282, spec/45_samples_sink.md R313: scaling by an entry that is 0, as entry 63 of R6's table is,
gives, for a finite value and a binary format, R6's among them, a zero with the sign of the value; exact rationals have
the one zero. The arithmetic is the spec's decision D12. -/
def Obligations.SentinelScaleIsZero : Prop :=
  scale Config.defaultParams 63#6 = .number 0 ∧ Config.defaultParams.format = .binary ⟨8, 23, .nearestEven⟩ ∧
  ∀ (p : Params) (i : BitVec 6), scale p i = .number 0 →
    (∀ b, p.format = .binary b →
      (∀ q : Rat, scl p (.number q) i = if q < 0 then .negativeZero else .number 0) ∧
      scl p .negativeZero i = .negativeZero) ∧
    (p.format = .exact → ∀ q : Rat, scl p (.number q) i = .number 0)

/-! ### The metadata probe -/

/-- spec/42_vbr.md R243 to R247: `XING` sets `IS_VBR` and reads each flagged field at a running offset, in the order
frames, bytes, TOC, scale; a field whose flag is clear keeps its value. The block must fit; nothing else changes but
the probe's position. The layout is the spec's from general knowledge (log 14), the two flag readings decision D24. -/
def Obligations.XingResult : Prop :=
  ∀ (s : State) (v : Version) (m : Mode) (fr by' tc sc : Bool) (flags : Byte),
    s.hdr.version = some v → s.hdr.mode = some m → flags = s.fb.getD (specSide v m + 7) 0#8 →
    fr = flags.getLsbD 0 → by' = flags.getLsbD 1 →
    tc = flags.getLsbD (if s.par.xingFlags = .standard then 2 else 3) →
    sc = flags.getLsbD (if s.par.xingFlags = .standard then 3 else 2) →
    specSide v m + 8 + 4 * fr.toNat + 4 * by'.toNat + 100 * tc.toNat + 4 * sc.toNat ≤ s.fb.length →
    exec .xing s =
      .next { s with
        vbr :=
          { isVbr := true
            frames := if fr = true then some (BitVec.ofNat 32 (bytesAt s (specSide v m + 8))) else s.vbr.frames
            bytes :=
              if by' = true then some (BitVec.ofNat 32 (bytesAt s (specSide v m + 8 + 4 * fr.toNat)))
              else s.vbr.bytes
            toc :=
              if tc = true then
                some ((List.range 100).map fun k =>
                  s.fb.getD (specSide v m + 8 + 4 * fr.toNat + 4 * by'.toNat + k) 0#8)
              else s.vbr.toc
            scale :=
              if sc = true then
                some (BitVec.ofNat 32
                  (bytesAt s (specSide v m + 8 + 4 * fr.toNat + 4 * by'.toNat + 100 * tc.toNat)))
              else s.vbr.scale }
        probe := .vbri }

/-- spec/42_vbr.md R243, R245, R251, spec/60_exceptions.md R376: where a field of the "Xing" block would end beyond
the frame buffer, `VbrHeaderCorrupt` is raised with `IS_VBR` set and the fields that fit kept. The layout is the
spec's from general knowledge (log 14), the end in `HALTED` decision D22. -/
def Obligations.XingCorrupt : Prop :=
  ∀ (s : State) (v : Version) (m : Mode) (fr by' tc sc : Bool) (flags : Byte),
    s.hdr.version = some v → s.hdr.mode = some m → flags = s.fb.getD (specSide v m + 7) 0#8 →
    fr = flags.getLsbD 0 → by' = flags.getLsbD 1 →
    tc = flags.getLsbD (if s.par.xingFlags = .standard then 2 else 3) →
    sc = flags.getLsbD (if s.par.xingFlags = .standard then 3 else 2) →
    s.fb.length < specSide v m + 8 + 4 * fr.toNat + 4 * by'.toNat + 100 * tc.toNat + 4 * sc.toNat →
    ∃ r : VbrRegs, exec .xing s = .next (raise .vbrHeaderCorrupt { s with vbr := r }) ∧ r.isVbr = true ∧
      r.frames =
        (if fr = true ∧ specSide v m + 12 ≤ s.fb.length then
          some (BitVec.ofNat 32 (bytesAt s (specSide v m + 8))) else s.vbr.frames) ∧
      r.bytes =
        (if by' = true ∧ specSide v m + 12 + 4 * fr.toNat ≤ s.fb.length then
          some (BitVec.ofNat 32 (bytesAt s (specSide v m + 8 + 4 * fr.toNat))) else s.vbr.bytes) ∧
      r.toc =
        (if tc = true ∧ specSide v m + 108 + 4 * fr.toNat + 4 * by'.toNat ≤ s.fb.length then
          some ((List.range 100).map fun k => s.fb.getD (specSide v m + 8 + 4 * fr.toNat + 4 * by'.toNat + k) 0#8)
        else s.vbr.toc) ∧
      r.scale = s.vbr.scale

/-- spec/42_vbr.md R249 to R251: `VBRI` sets `IS_VBR`, returns the four values to "unknown", then reads the byte count
at 42 and the frame count at 46, each where it fits; else `VbrHeaderCorrupt`. The layout is the spec's from general
knowledge (log 14), the values returned to "unknown" decision D25. -/
def Obligations.VbriResult : Prop :=
  ∀ s : State,
    (50 ≤ s.fb.length →
      exec .vbri s =
        .next { s with
          vbr :=
            ⟨true, some (BitVec.ofNat 32 (bytesAt s 46)), some (BitVec.ofNat 32 (bytesAt s 42)), none, none⟩
          probe := .done }) ∧
    (46 ≤ s.fb.length → s.fb.length < 50 →
      exec .vbri s =
        .next (raise .vbrHeaderCorrupt
          { s with vbr := ⟨true, none, some (BitVec.ofNat 32 (bytesAt s 42)), none, none⟩ })) ∧
    (s.fb.length < 46 →
      exec .vbri s = .next (raise .vbrHeaderCorrupt { s with vbr := ⟨true, none, none, none, none⟩ }))

/-- spec/42_vbr.md R253: a tag has no effect on decoding: beside the VBR registers and the probe's position it changes
only what `raise` writes, and that only where it raises. `BITPOS` and `CRC_ACC` never move. Every byte of the stream
reads as before. -/
def Obligations.ProbeFrame : Prop :=
  ∀ (i : Instr) (s t : State), (i = .xing ∨ i = .vbri) → exec i s = .next t →
    (t = { s with vbr := t.vbr, probe := t.probe } ∨
      t = { s with
        vbr := t.vbr, fb := [], sb := t.sb, hist := t.hist, faults := t.faults, last := .exc .vbrHeaderCorrupt
        top := .halted }) ∧
    t.bitpos = s.bitpos ∧ t.crcAcc = s.crcAcc ∧
    ∀ a, memRead t.stream.cells a = memRead s.stream.cells a

/-- spec/42_vbr.md R241, R242, R243, R248, R249, R252, spec/46_frame_loop_host.md R343, R346: the probe runs where
`FIRST` is set, which clears it; an absent tag is no error, the probe goes on; after it a frame of Layer I is
constructed and one of layer 2 or 3 refused. How the stages divide into steps is the model's choice (log 7). The
refusal of layers 2 and 3 is the spec's decision D26. That a tag cut off by the end of the body is absent is the
spec's decision D23; the Xing offset of R242 is the spec's from general knowledge (log 14). -/
def Obligations.ProbeStages : Prop :=
  ∀ s : State, s.top = .busy → s.phase = .vbr →
    (s.probe = .start → s.first = true → step s = .next { s with first := false, probe := .xing }) ∧
    (s.probe = .start → s.first = false → step s = .next { s with probe := .done }) ∧
    (∀ v m, s.probe = .xing → s.hdr.version = some v → s.hdr.mode = some m →
      (s.fb.length < specSide v m + 4 ∨ bytesAt s (specSide v m) ≠ 0x58696E67) →
      step s = .next { s with probe := .vbri }) ∧
    (s.probe = .vbri → (s.fb.length < 36 ∨ bytesAt s 32 ≠ 0x56425249) → step s = .next { s with probe := .done }) ∧
    (s.probe = .done → s.hdr.layer = some .one → step s = .next { s with phase := .construct }) ∧
    (∀ l, s.probe = .done → s.hdr.layer = some l → l ≠ .one →
      step s = .next (raise (.refused .layerNotDecoded) s))

/-- spec/10_state.md R26, R27, spec/42_vbr.md R241: in every step of the machine `FIRST` changes only by `RESET` or when
the probe starts, and then to 0; the VBR registers change only by `RESET` or at `P_VBR`, where a tag has been found. -/
def Obligations.ProbeRunsOnce : Prop :=
  ∀ s t : State, step s = .next t →
    (t.first ≠ s.first →
      (GivesReset s ∧ t.first = true) ∨
        (s.top = .busy ∧ s.phase = .vbr ∧ s.probe = .start ∧ s.first = true ∧ t.first = false)) ∧
    (t.vbr ≠ s.vbr →
      GivesReset s ∨ (s.top = .busy ∧ s.phase = .vbr ∧ (s.probe = .xing ∨ s.probe = .vbri) ∧ t.vbr.isVbr = true))

/-! ### The sequencer -/

/-- spec/20_memory.md R75, spec/40_sync.md R160 to R163: where the byte source does not fail, the search step finds
the first offset from `POS` on at which a word matches the predicate, consumes up to the word's end and goes to
`P_HEADER`; where a stream of length `e` has none, it consumes the stream and raises `LostSync`; where an endless one
has none, it never answers (log 12). Where the source fails it raises `IoFailure`, the reader's position being any
value (log 11). `LostSync` at every end of the stream is the spec's decision D19. -/
def Obligations.SearchFindsFirst : Prop :=
  ∀ (s : State) (lock : Word), s.top = .busy → s.phase = .sync →
    (s.syncMode = .strictSync → s.lock = some lock) →
    (∀ p, s.io.headD false = false → s.pos ≤ p → GoodAt s lock p → (∀ q, s.pos ≤ q → q < p → ¬ GoodAt s lock q) →
      step s =
        .next { s with
          h := some (streamWord s.stream p), phase := .header, pos := p + 4, io := s.io.tail
          hist := s.hist ++ [.rdSync (.word (streamWord s.stream p))] }) ∧
    (∀ e, s.io.headD false = false → s.stream.len = some e → (∀ p, s.pos ≤ p → ¬ GoodAt s lock p) →
      step s =
        .next (raise .lostSync
          { s with pos := e, io := s.io.tail, hist := s.hist ++ [.rdSync .endOfStream] })) ∧
    (s.io.headD false = false → s.stream.len = none → (∀ p, s.pos ≤ p → ¬ GoodAt s lock p) →
      step s = .fault .syncNeverAnswers) ∧
    (s.io.headD false = true →
      ∃ p f, step s =
        .next (raise .ioFailure
          { s with pos := p, fresh := f, io := s.io.tail, hist := s.hist ++ [.rdSync .ioError] }))

/-- spec/20_memory.md R76, spec/40_sync.md R160, R167, spec/41_header.md R208: where the byte source does not fail and
`FRAME_SIZE` bytes are left, the body read puts them into the buffer, `BITPOS` is 0 and validation is next; with fewer
left, they are dropped and the search goes on. Where the source fails, `IoFailure` is raised, the reader's position being
any value (log 11). What a short read does is the spec's decision D20; that its event stands before `RD.Close` in the
history is the model's choice (log 10). -/
def Obligations.BodyReadResult : Prop :=
  ∀ (s : State) (n : Nat),
    s.top = .busy → s.phase = .body → s.geo.frameSize = some n → n ≤ s.par.frameBufCap →
    (s.io.headD false = false → (∀ e, s.stream.len = some e → s.pos + n ≤ e) →
      step s =
        .next { s with
          fb := (List.range n).map (fun k => memRead s.stream.cells (s.pos + k)), bitpos := 0, pos := s.pos + n
          phase := .validate, io := s.io.tail, hist := s.hist ++ [.rdReadFrame n (.count n)] }) ∧
    (∀ e, s.io.headD false = false → s.stream.len = some e → s.pos ≤ e → e < s.pos + n →
      step s =
        .next { s with
          fb := [], bitpos := 0, pos := e, phase := .sync, io := s.io.tail
          hist := s.hist ++ [.rdReadFrame n (.count (e - s.pos)), .frameSizeMismatch, .rdClose] }) ∧
    (s.io.headD false = true →
      ∃ p f, step s =
        .next (raise .ioFailure
          { s with pos := p, fresh := f, io := s.io.tail, hist := s.hist ++ [.rdReadFrame n .ioError] }))

/-- spec/40_sync.md R168 to R170, spec/20_memory.md R79, R80: validation. Under `INITIAL_SYNC` the frame is accepted
and locks the stream. Under `STRICT_SYNC` with the trivial check it is accepted; with the lookahead it is accepted
where the stream ends at `POS` or a word matching the lock stands there. Where 1 to 3 bytes are left (`Short`), or
another word stands there (`NoMatch`), the body goes back to the stream and the search goes on `RESYNC_ADVANCE` bytes
after the candidate's first byte, which lies the body and 4 bytes before `POS`. The lookahead is the spec's decision
D6, where the search goes on D7; that the event stands before `RD.Unread` in the history is the model's choice (log
10). -/
def Obligations.ValidateAndLock : Prop :=
  ∀ (s : State) (w : Word), s.top = .busy → s.phase = .validate → s.h = some w →
    (s.syncMode = .initialSync →
      step s = .next { s with lock := some (w &&& s.par.lockMask), syncMode := .strictSync, phase := .crcw }) ∧
    (s.syncMode = .strictSync → s.par.strictValidate = .trivial → step s = .next { s with phase := .crcw }) ∧
    (∀ lock e, s.syncMode = .strictSync → s.par.strictValidate = .lookahead → s.lock = some lock →
      s.stream.len = some e → e ≤ s.pos →
      step s = .next { s with phase := .crcw, hist := s.hist ++ [.rdPeekSync .atEnd] }) ∧
    (∀ lock, s.syncMode = .strictSync → s.par.strictValidate = .lookahead → s.lock = some lock →
      (∀ e, s.stream.len = some e → s.pos + 4 ≤ e) → streamWord s.stream s.pos &&& s.par.lockMask = lock →
      step s = .next { s with phase := .crcw, hist := s.hist ++ [.rdPeekSync .isMatch] }) ∧
    (∀ lock e, s.syncMode = .strictSync → s.par.strictValidate = .lookahead → s.lock = some lock →
      s.stream.len = some e → s.pos < e → e < s.pos + 4 →
      step s =
        .next { s with
          fb := [], pos := s.pos + s.par.resyncAdvance - s.fb.length - 4, phase := .sync
          hist := s.hist ++ [.rdPeekSync .short, .strictSyncMismatch, .rdUnread] }) ∧
    (∀ lock, s.syncMode = .strictSync → s.par.strictValidate = .lookahead → s.lock = some lock →
      (∀ e, s.stream.len = some e → s.pos + 4 ≤ e) → streamWord s.stream s.pos &&& s.par.lockMask ≠ lock →
      step s =
        .next { s with
          fb := [], pos := s.pos + s.par.resyncAdvance - s.fb.length - 4, phase := .sync
          hist := s.hist ++ [.rdPeekSync .noMatch, .strictSyncMismatch, .rdUnread] })

/-- spec/40_sync.md R162, R172: the strict predicate is equality of the masked word with the lock. A header matches
the lock taken from another exactly where no bit of the mask differs, which is where the two masked headers are equal;
a strict match of a lock with the sync bits is an initial match; and where the mask strips the per-frame-variable
fields, a header that differs in those only matches. For every lock mask. -/
def Obligations.LockLaw : Prop :=
  ∀ mask : Word,
    (∀ lock w : Word, syncPred mask .strictSync lock w = true ↔ w &&& mask = lock) ∧
    (∀ h1 h2 : Word,
      (syncPred mask .strictSync (h1 &&& mask) h2 = true ↔
        ∀ b, b < 32 → mask.getLsbD b = true → h1.getLsbD b = h2.getLsbD b) ∧
      (h1 &&& mask = h2 &&& mask ↔ ∀ b, b < 32 → mask.getLsbD b = true → h1.getLsbD b = h2.getLsbD b)) ∧
    (∀ lock w : Word, lock &&& 0xFFE00000#32 = 0xFFE00000#32 → syncPred mask .strictSync lock w = true →
      syncPred mask .initialSync lock w = true) ∧
    (∀ h1 h2 : Word, (∀ b, FrameVariable b → mask.getLsbD b = false) →
      (∀ b, b < 32 → ¬ FrameVariable b → h1.getLsbD b = h2.getLsbD b) →
      syncPred mask .strictSync (h1 &&& mask) h2 = true)

/-- spec/40_sync.md R170, R171, spec/10_state.md R24, R25: in every step of the machine the sync mode goes from
`INITIAL_SYNC` to `STRICT_SYNC` only by accepting a frame at `P_VALIDATE`, which sets the lock from `H`, and back only by
`RESET`, which clears it; the lock changes at no other step. -/
def Obligations.SyncModeMachine : Prop :=
  ∀ s t : State, step s = .next t →
    (t.syncMode = s.syncMode ∧ t.lock = s.lock) ∨
    (s.syncMode = .initialSync ∧ t.syncMode = .strictSync ∧ s.top = .busy ∧ s.phase = .validate ∧ t.phase = .crcw ∧
      ∃ w, s.h = some w ∧ t.lock = some (w &&& s.par.lockMask)) ∨
    (GivesReset s ∧ t.syncMode = .initialSync ∧ t.lock = none)

/-- spec/44_alloc_scf.md R271: `CONSTRUCT` makes a fresh file: all `Mono` for `SINGLE_CHANNEL`; for `JOINT_STEREO`
`Stereo` below `BOUND` and `ISX` from it on; all `Stereo` for the other two; entries from `N` on hold "none", and so does
every field but the variant. -/
def Obligations.ConstructResult : Prop :=
  ∀ (s : State) (m : Mode) (b n : Nat), s.top = .busy → s.phase = .construct → s.hdr.mode = some m →
    s.geo.bound = some b → s.geo.subbandCount = some n →
    ∃ t, step s = .next t ∧ t = { s with sb := t.sb, phase := .alloc, sbi := 0, chan := .ch1 } ∧
      ∀ i, i < 32 →
        t.sb[i]? = some
          { variant :=
              if n ≤ i then none
              else if m = .singleChannel then some .mono
              else if m = .jointStereo then (if i < b then some .stereo else some .isx)
              else some .stereo
            alloc1 := none, alloc2 := none, scf1 := none, scf2 := none, raw1 := none, raw2 := none }

/-- spec/44_alloc_scf.md R270, R272, R280, spec/46_frame_loop_host.md R344: a channel that is not signalled has no
scale-factor index, nothing is read for it and the next slot is next; after the last subband the allocation phase hands
over to the scale factors, and those to the gate. That the counter goes back to 0 at the first hand-over and stays at
the second is read from the loops by inference (log 8). -/
def Obligations.FieldLoopsPassOn : Prop :=
  ∀ (s : State) (n : Nat), s.top = .busy → s.geo.subbandCount = some n →
    (∀ e v, s.phase = .scf → s.sbi < n → s.sb[s.sbi]? = some e → e.variant = some v →
      allocFor v s.chan e = some 0#4 →
      step s =
        .next { s with
          chan := if s.chan = .ch1 ∧ v ≠ .mono then .ch2 else .ch1
          sbi := if s.chan = .ch1 ∧ v ≠ .mono then s.sbi else s.sbi + 1 }) ∧
    (s.phase = .alloc → n ≤ s.sbi → step s = .next { s with phase := .scf, sbi := 0, chan := .ch1 }) ∧
    (s.phase = .scf → n ≤ s.sbi → step s = .next { s with phase := .gate })

/-- spec/45_samples_sink.md R301, R318, spec/43_crc.md R261, R265: the gate. With a mismatching checksum it closes with one
event; else it opens, and where the frame's sample field, twelve times what all codes ask for, does not fit the body,
`FrameOverrun` is raised. The sample phase begins at repetition 0, subband 0. What is compared is the accumulator, where
the checksum's parameters neither reflect nor invert it, as R261's values have it. The length check is the spec's
decision D8. -/
def Obligations.GateResult : Prop :=
  (∀ (c : CrcParams) (acc : BitVec 16), c.reflectOut = false → c.xorOut = 0#16 → crcResult c acc = acc) ∧
  ∀ (s : State), s.top = .busy → s.phase = .gate → s.geo.subbandCount = some 32 →
    (∀ i (hi : i < 32), s.sb[i].variant ≠ none ∧ s.sb[i].alloc1 ≠ none ∧
      (s.sb[i].variant = some .stereo → s.sb[i].alloc2 ≠ none)) →
    (∀ acc field, s.crcAttached = true → s.crcAcc = some acc → s.crcField = some field → crcResult s.par.crc acc ≠ field →
      step s =
        .next { s with
          gateOk := some false, phase := .samples, rep := 0, sbi := 0, chan := .ch1
          hist := s.hist ++ [.checksumMismatch] }) ∧
    ((s.crcAttached = false ∨ ∃ c, s.crcAcc = some c ∧ s.crcField = some (crcResult s.par.crc c)) →
      (s.bitpos + 12 * askedBits s.sb ≤ 8 * s.fb.length →
        step s = .next { s with gateOk := some true, phase := .samples, rep := 0, sbi := 0, chan := .ch1 }) ∧
      (8 * s.fb.length < s.bitpos + 12 * askedBits s.sb →
        step s = .next (raise .frameOverrun { s with gateOk := some true })))

/-- spec/45_samples_sink.md R304, R311: after the last subband each enabled sink is flushed once, sink 1 first; the next
repetition begins, or after the twelfth the frame is done. The order of the flushes is the spec's decision D10. That `REP`
is then 12 and `SBI` stays is read from the loops by inference (log 8), and that a flush empties the sink's bank is the
model's choice (log 21). -/
def Obligations.EndOfRepetition : Prop :=
  ∀ (s : State) (n : Nat) (m : Mode), s.top = .busy → s.phase = .samples → s.geo.subbandCount = some n → n ≤ s.sbi →
    s.hdr.mode = some m →
    (s.rep + 1 < 12 →
      step s =
        .next { flush2 (sink2On s.chsel m) (flush1 (sink1On s.chsel) s) with
          rep := s.rep + 1, sbi := 0, chan := .ch1 }) ∧
    (12 ≤ s.rep + 1 →
      step s =
        .next { flush2 (sink2On s.chsel m) (flush1 (sink1On s.chsel) s) with rep := s.rep + 1, phase := .done })

/-- spec/46_frame_loop_host.md R343, R345, R347: at `P_DONE` the body is closed, the subband file cleared and the
command ends `FrameDone` in `IDLE`; the header registers, the position in the stream and `GATE_OK` stay. `TOP` and
`LAST` are the spec's decisions D16 and D17. -/
def Obligations.FrameDoneResult : Prop :=
  ∀ s : State, s.top = .busy → s.phase = .done →
    step s =
      .next { s with
        fb := [], hist := s.hist ++ [.rdClose], last := .frameDone, top := .idle
        sb := Vector.replicate 32 ⟨none, none, none, none, none, none, none⟩ }

/-! ### Exceptions and the whole machine -/

/-- spec/60_exceptions.md R370, R371, spec/46_frame_loop_host.md R349: `raise E` closes the body where one was read,
clears the subband file, sets the bit of `E`'s code (none for `Refused(Halted)`), records `E` and leaves `IDLE` after
`IllegalAllocation` and `FrameOverrun`, `HALTED` after every other; everything else keeps its value. The codes are the
spec's decision D27, the registers `FAULTS` and `LAST` D17, the outcomes `IDLE` and `HALTED` D16. -/
def Obligations.RaiseEffect : Prop :=
  ∀ (x : Exc) (s : State),
    raise x s =
      { s with
        fb := []
        hist := if s.fb = [] then s.hist else s.hist ++ [.rdClose]
        sb := Vector.replicate 32 ⟨none, none, none, none, none, none, none⟩
        faults := s.faults |||
          (match x with
            | .lostSync => 0x02#8
            | .unsupported _ => 0x04#8
            | .illegalAllocation _ _ => 0x08#8
            | .vbrHeaderCorrupt => 0x10#8
            | .ioFailure => 0x20#8
            | .frameOverrun => 0x40#8
            | .refused .halted => 0x00#8
            | .refused .badBitrateIndex => 0x80#8
            | .refused .layerNotDecoded => 0x80#8)
        last := .exc x
        top :=
          match x with
          | .illegalAllocation _ _ => .idle
          | .frameOverrun => .idle
          | .lostSync => .halted
          | .unsupported _ => .halted
          | .vbrHeaderCorrupt => .halted
          | .ioFailure => .halted
          | .refused _ => .halted }

/-- spec/46_frame_loop_host.md R344, spec/60_exceptions.md R371, spec/10_state.md R30: a step of a running command makes one
of the transfers of the table, or stays in one of the four phases that have more than one step, or ends the command with
`PHASE` as it was. That the probe and the field loops take several steps and each other phase one is the model's choice
(log 1). -/
def Obligations.PhaseOrder : Prop :=
  ∀ s t : State, s.top = .busy → step s = .next t →
    (t.top = .busy ∧ Transfer s.phase t.phase) ∨
    (t.top = .busy ∧ t.phase = s.phase ∧
      (s.phase = .vbr ∨ s.phase = .alloc ∨ s.phase = .scf ∨ s.phase = .samples)) ∨
    (t.top ≠ .busy ∧ t.phase = s.phase)

/-- spec/10_state.md R31, spec/60_exceptions.md R371: a bit of `FAULTS` once set stays set in every step but `RESET`,
which empties it. The register is the spec's decision D17. -/
def Obligations.FaultsSticky : Prop :=
  ∀ s t : State, step s = .next t →
    (GivesReset s ∧ t.faults = 0#8) ∨ ∀ b, s.faults.getLsbD b = true → t.faults.getLsbD b = true

/-- spec/20_memory.md R102, spec/70_reset_and_hazards.md R426, R427, spec/10_state.md R35: while a command runs no step
writes the stream, the channel selector or the parameters, the cursor moves only forward or back to 0 at a body read, and
from `P_BODY` on no step writes a header or geometry register. -/
def Obligations.RunningCommandKeeps : Prop :=
  ∀ s t : State, s.top = .busy → step s = .next t →
    t.stream = s.stream ∧ (∀ a, memRead t.stream.cells a = memRead s.stream.cells a) ∧ t.chsel = s.chsel ∧
    t.par = s.par ∧ (s.bitpos ≤ t.bitpos ∨ (s.phase = .body ∧ t.bitpos = 0)) ∧
    (s.phase ≠ .header → t.hdr = s.hdr ∧ t.geo = s.geo) ∧ (s.phase ≠ .sync → t.h = s.h)

/-- The invariant of the reachable states holds after reset (spec/10_state.md R45), where the parameters have R6's values. -/
def Obligations.ResetMeetsInvariant : Prop := Inv State.reset

/-- Every step keeps the invariant: what the rules ask of the parameters, the canonical form of the stream memory, the
lock's form, the ranges of the counters, the checksum registers' presence, the empty register file between commands,
and what each phase of a frame guarantees (spec/00_scope.md R6, spec/10_state.md R23, R25, R34, R36, R39, R40,
spec/46_frame_loop_host.md R344). That `REP` is 12 in `P_DONE` is read from the loops by inference (log 8). -/
def Obligations.StepKeepsInvariant : Prop :=
  ∀ s t : State, Inv s → step s = .next t → Inv t

/-- spec/10_state.md R23: from a state of the invariant no step reads a register that holds "none" or stops in any other
way, but for the search of an endless stream that never answers (log 12). -/
def Obligations.InvariantStatesAreSafe : Prop :=
  ∀ s : State, Inv s → SafeStep s

/-- spec/45_samples_sink.md R315, spec/60_exceptions.md R383: in a running frame each sink has received what its phase
says; a command that ends `FrameDone` has sent each enabled sink 384 inputs and 12 flushes and a disabled one nothing; a
command that ends with an exception has sent no sink anything. -/
def Obligations.SinkEventsCounted : Prop :=
  ∀ (k : SinkId) (s t : State), Inv s → (s.top = .busy → SinkCounts k s) → step s = .next t →
    (t.top = .busy → SinkCounts k t) ∧
    (s.top = .busy → t.top ≠ .busy →
      (t.last = .frameDone ∧ ∀ m, t.hdr.mode = some m →
        inputCount k t.hist = (if sinkEnabled k t.chsel m then 384 else 0) ∧
        flushCount k t.hist = (if sinkEnabled k t.chsel m then 12 else 0)) ∨
      ((∃ x, t.last = .exc x) ∧ inputCount k t.hist = 0 ∧ flushCount k t.hist = 0))

end
end

