-- ==== Sys2Proof/Laws/State.lean ====
section
/-! SUPPORT. What each named update of the state leaves alone and what it writes, one lemma a field; later proofs never
unfold a record update. -/

namespace Sys2Proof.Machine

open Sys2Proof

variable (s : State) (b : Bool) (e : Event) (x : Exc) (g : SubbandRegs) (k : SinkId) (i : Nat) (m : Mode) (v : Sample)
  (v2 : Option Sample)

/-! ### `logEvent` -/

@[simp] theorem logEvent_syncMode : (logEvent e s).syncMode = s.syncMode := rfl
@[simp] theorem logEvent_lock : (logEvent e s).lock = s.lock := rfl
@[simp] theorem logEvent_first : (logEvent e s).first = s.first := rfl
@[simp] theorem logEvent_vbr : (logEvent e s).vbr = s.vbr := rfl
@[simp] theorem logEvent_chsel : (logEvent e s).chsel = s.chsel := rfl
@[simp] theorem logEvent_top : (logEvent e s).top = s.top := rfl
@[simp] theorem logEvent_phase : (logEvent e s).phase = s.phase := rfl
@[simp] theorem logEvent_faults : (logEvent e s).faults = s.faults := rfl
@[simp] theorem logEvent_last : (logEvent e s).last = s.last := rfl
@[simp] theorem logEvent_h : (logEvent e s).h = s.h := rfl
@[simp] theorem logEvent_hdr : (logEvent e s).hdr = s.hdr := rfl
@[simp] theorem logEvent_geo : (logEvent e s).geo = s.geo := rfl
@[simp] theorem logEvent_fb : (logEvent e s).fb = s.fb := rfl
@[simp] theorem logEvent_bitpos : (logEvent e s).bitpos = s.bitpos := rfl
@[simp] theorem logEvent_crcAttached : (logEvent e s).crcAttached = s.crcAttached := rfl
@[simp] theorem logEvent_crcField : (logEvent e s).crcField = s.crcField := rfl
@[simp] theorem logEvent_crcAcc : (logEvent e s).crcAcc = s.crcAcc := rfl
@[simp] theorem logEvent_gateOk : (logEvent e s).gateOk = s.gateOk := rfl
@[simp] theorem logEvent_sb : (logEvent e s).sb = s.sb := rfl
@[simp] theorem logEvent_sbi : (logEvent e s).sbi = s.sbi := rfl
@[simp] theorem logEvent_rep : (logEvent e s).rep = s.rep := rfl
@[simp] theorem logEvent_chan : (logEvent e s).chan = s.chan := rfl
@[simp] theorem logEvent_stream : (logEvent e s).stream = s.stream := rfl
@[simp] theorem logEvent_pos : (logEvent e s).pos = s.pos := rfl
@[simp] theorem logEvent_io : (logEvent e s).io = s.io := rfl
@[simp] theorem logEvent_bank1 : (logEvent e s).bank1 = s.bank1 := rfl
@[simp] theorem logEvent_bank2 : (logEvent e s).bank2 = s.bank2 := rfl
@[simp] theorem logEvent_host : (logEvent e s).host = s.host := rfl
@[simp] theorem logEvent_probe : (logEvent e s).probe = s.probe := rfl
@[simp] theorem logEvent_par : (logEvent e s).par = s.par := rfl
@[simp] theorem logEvent_fresh : (logEvent e s).fresh = s.fresh := rfl

/-! ### `rdClose` -/

@[simp] theorem rdClose_syncMode : (rdClose s).syncMode = s.syncMode := rfl
@[simp] theorem rdClose_lock : (rdClose s).lock = s.lock := rfl
@[simp] theorem rdClose_first : (rdClose s).first = s.first := rfl
@[simp] theorem rdClose_vbr : (rdClose s).vbr = s.vbr := rfl
@[simp] theorem rdClose_chsel : (rdClose s).chsel = s.chsel := rfl
@[simp] theorem rdClose_top : (rdClose s).top = s.top := rfl
@[simp] theorem rdClose_phase : (rdClose s).phase = s.phase := rfl
@[simp] theorem rdClose_faults : (rdClose s).faults = s.faults := rfl
@[simp] theorem rdClose_last : (rdClose s).last = s.last := rfl
@[simp] theorem rdClose_h : (rdClose s).h = s.h := rfl
@[simp] theorem rdClose_hdr : (rdClose s).hdr = s.hdr := rfl
@[simp] theorem rdClose_geo : (rdClose s).geo = s.geo := rfl
@[simp] theorem rdClose_bitpos : (rdClose s).bitpos = s.bitpos := rfl
@[simp] theorem rdClose_crcAttached : (rdClose s).crcAttached = s.crcAttached := rfl
@[simp] theorem rdClose_crcField : (rdClose s).crcField = s.crcField := rfl
@[simp] theorem rdClose_crcAcc : (rdClose s).crcAcc = s.crcAcc := rfl
@[simp] theorem rdClose_gateOk : (rdClose s).gateOk = s.gateOk := rfl
@[simp] theorem rdClose_sb : (rdClose s).sb = s.sb := rfl
@[simp] theorem rdClose_sbi : (rdClose s).sbi = s.sbi := rfl
@[simp] theorem rdClose_rep : (rdClose s).rep = s.rep := rfl
@[simp] theorem rdClose_chan : (rdClose s).chan = s.chan := rfl
@[simp] theorem rdClose_stream : (rdClose s).stream = s.stream := rfl
@[simp] theorem rdClose_pos : (rdClose s).pos = s.pos := rfl
@[simp] theorem rdClose_io : (rdClose s).io = s.io := rfl
@[simp] theorem rdClose_bank1 : (rdClose s).bank1 = s.bank1 := rfl
@[simp] theorem rdClose_bank2 : (rdClose s).bank2 = s.bank2 := rfl
@[simp] theorem rdClose_host : (rdClose s).host = s.host := rfl
@[simp] theorem rdClose_probe : (rdClose s).probe = s.probe := rfl
@[simp] theorem rdClose_par : (rdClose s).par = s.par := rfl
@[simp] theorem rdClose_fresh : (rdClose s).fresh = s.fresh := rfl

/-! ### `rdUnread` -/

@[simp] theorem rdUnread_syncMode : (rdUnread s).syncMode = s.syncMode := rfl
@[simp] theorem rdUnread_lock : (rdUnread s).lock = s.lock := rfl
@[simp] theorem rdUnread_first : (rdUnread s).first = s.first := rfl
@[simp] theorem rdUnread_vbr : (rdUnread s).vbr = s.vbr := rfl
@[simp] theorem rdUnread_chsel : (rdUnread s).chsel = s.chsel := rfl
@[simp] theorem rdUnread_top : (rdUnread s).top = s.top := rfl
@[simp] theorem rdUnread_phase : (rdUnread s).phase = s.phase := rfl
@[simp] theorem rdUnread_faults : (rdUnread s).faults = s.faults := rfl
@[simp] theorem rdUnread_last : (rdUnread s).last = s.last := rfl
@[simp] theorem rdUnread_h : (rdUnread s).h = s.h := rfl
@[simp] theorem rdUnread_hdr : (rdUnread s).hdr = s.hdr := rfl
@[simp] theorem rdUnread_geo : (rdUnread s).geo = s.geo := rfl
@[simp] theorem rdUnread_bitpos : (rdUnread s).bitpos = s.bitpos := rfl
@[simp] theorem rdUnread_crcAttached : (rdUnread s).crcAttached = s.crcAttached := rfl
@[simp] theorem rdUnread_crcField : (rdUnread s).crcField = s.crcField := rfl
@[simp] theorem rdUnread_crcAcc : (rdUnread s).crcAcc = s.crcAcc := rfl
@[simp] theorem rdUnread_gateOk : (rdUnread s).gateOk = s.gateOk := rfl
@[simp] theorem rdUnread_sb : (rdUnread s).sb = s.sb := rfl
@[simp] theorem rdUnread_sbi : (rdUnread s).sbi = s.sbi := rfl
@[simp] theorem rdUnread_rep : (rdUnread s).rep = s.rep := rfl
@[simp] theorem rdUnread_chan : (rdUnread s).chan = s.chan := rfl
@[simp] theorem rdUnread_stream : (rdUnread s).stream = s.stream := rfl
@[simp] theorem rdUnread_io : (rdUnread s).io = s.io := rfl
@[simp] theorem rdUnread_bank1 : (rdUnread s).bank1 = s.bank1 := rfl
@[simp] theorem rdUnread_bank2 : (rdUnread s).bank2 = s.bank2 := rfl
@[simp] theorem rdUnread_host : (rdUnread s).host = s.host := rfl
@[simp] theorem rdUnread_probe : (rdUnread s).probe = s.probe := rfl
@[simp] theorem rdUnread_par : (rdUnread s).par = s.par := rfl
@[simp] theorem rdUnread_fresh : (rdUnread s).fresh = s.fresh := rfl

/-! ### `failIo` -/

@[simp] theorem failIo_syncMode : (failIo s).syncMode = s.syncMode := rfl
@[simp] theorem failIo_lock : (failIo s).lock = s.lock := rfl
@[simp] theorem failIo_first : (failIo s).first = s.first := rfl
@[simp] theorem failIo_vbr : (failIo s).vbr = s.vbr := rfl
@[simp] theorem failIo_chsel : (failIo s).chsel = s.chsel := rfl
@[simp] theorem failIo_top : (failIo s).top = s.top := rfl
@[simp] theorem failIo_phase : (failIo s).phase = s.phase := rfl
@[simp] theorem failIo_faults : (failIo s).faults = s.faults := rfl
@[simp] theorem failIo_last : (failIo s).last = s.last := rfl
@[simp] theorem failIo_h : (failIo s).h = s.h := rfl
@[simp] theorem failIo_hdr : (failIo s).hdr = s.hdr := rfl
@[simp] theorem failIo_geo : (failIo s).geo = s.geo := rfl
@[simp] theorem failIo_fb : (failIo s).fb = s.fb := rfl
@[simp] theorem failIo_bitpos : (failIo s).bitpos = s.bitpos := rfl
@[simp] theorem failIo_crcAttached : (failIo s).crcAttached = s.crcAttached := rfl
@[simp] theorem failIo_crcField : (failIo s).crcField = s.crcField := rfl
@[simp] theorem failIo_crcAcc : (failIo s).crcAcc = s.crcAcc := rfl
@[simp] theorem failIo_gateOk : (failIo s).gateOk = s.gateOk := rfl
@[simp] theorem failIo_sb : (failIo s).sb = s.sb := rfl
@[simp] theorem failIo_sbi : (failIo s).sbi = s.sbi := rfl
@[simp] theorem failIo_rep : (failIo s).rep = s.rep := rfl
@[simp] theorem failIo_chan : (failIo s).chan = s.chan := rfl
@[simp] theorem failIo_stream : (failIo s).stream = s.stream := rfl
@[simp] theorem failIo_bank1 : (failIo s).bank1 = s.bank1 := rfl
@[simp] theorem failIo_bank2 : (failIo s).bank2 = s.bank2 := rfl
@[simp] theorem failIo_hist : (failIo s).hist = s.hist := rfl
@[simp] theorem failIo_host : (failIo s).host = s.host := rfl
@[simp] theorem failIo_probe : (failIo s).probe = s.probe := rfl
@[simp] theorem failIo_par : (failIo s).par = s.par := rfl

/-! ### `closeIfRead` -/

@[simp] theorem closeIfRead_syncMode : (closeIfRead s).syncMode = s.syncMode := by
  unfold closeIfRead; split <;> rfl
@[simp] theorem closeIfRead_lock : (closeIfRead s).lock = s.lock := by
  unfold closeIfRead; split <;> rfl
@[simp] theorem closeIfRead_first : (closeIfRead s).first = s.first := by
  unfold closeIfRead; split <;> rfl
@[simp] theorem closeIfRead_vbr : (closeIfRead s).vbr = s.vbr := by
  unfold closeIfRead; split <;> rfl
@[simp] theorem closeIfRead_chsel : (closeIfRead s).chsel = s.chsel := by
  unfold closeIfRead; split <;> rfl
@[simp] theorem closeIfRead_top : (closeIfRead s).top = s.top := by
  unfold closeIfRead; split <;> rfl
@[simp] theorem closeIfRead_phase : (closeIfRead s).phase = s.phase := by
  unfold closeIfRead; split <;> rfl
@[simp] theorem closeIfRead_faults : (closeIfRead s).faults = s.faults := by
  unfold closeIfRead; split <;> rfl
@[simp] theorem closeIfRead_last : (closeIfRead s).last = s.last := by
  unfold closeIfRead; split <;> rfl
@[simp] theorem closeIfRead_h : (closeIfRead s).h = s.h := by
  unfold closeIfRead; split <;> rfl
@[simp] theorem closeIfRead_hdr : (closeIfRead s).hdr = s.hdr := by
  unfold closeIfRead; split <;> rfl
@[simp] theorem closeIfRead_geo : (closeIfRead s).geo = s.geo := by
  unfold closeIfRead; split <;> rfl
@[simp] theorem closeIfRead_bitpos : (closeIfRead s).bitpos = s.bitpos := by
  unfold closeIfRead; split <;> rfl
@[simp] theorem closeIfRead_crcAttached : (closeIfRead s).crcAttached = s.crcAttached := by
  unfold closeIfRead; split <;> rfl
@[simp] theorem closeIfRead_crcField : (closeIfRead s).crcField = s.crcField := by
  unfold closeIfRead; split <;> rfl
@[simp] theorem closeIfRead_crcAcc : (closeIfRead s).crcAcc = s.crcAcc := by
  unfold closeIfRead; split <;> rfl
@[simp] theorem closeIfRead_gateOk : (closeIfRead s).gateOk = s.gateOk := by
  unfold closeIfRead; split <;> rfl
@[simp] theorem closeIfRead_sb : (closeIfRead s).sb = s.sb := by
  unfold closeIfRead; split <;> rfl
@[simp] theorem closeIfRead_sbi : (closeIfRead s).sbi = s.sbi := by
  unfold closeIfRead; split <;> rfl
@[simp] theorem closeIfRead_rep : (closeIfRead s).rep = s.rep := by
  unfold closeIfRead; split <;> rfl
@[simp] theorem closeIfRead_chan : (closeIfRead s).chan = s.chan := by
  unfold closeIfRead; split <;> rfl
@[simp] theorem closeIfRead_stream : (closeIfRead s).stream = s.stream := by
  unfold closeIfRead; split <;> rfl
@[simp] theorem closeIfRead_pos : (closeIfRead s).pos = s.pos := by
  unfold closeIfRead; split <;> rfl
@[simp] theorem closeIfRead_io : (closeIfRead s).io = s.io := by
  unfold closeIfRead; split <;> rfl
@[simp] theorem closeIfRead_bank1 : (closeIfRead s).bank1 = s.bank1 := by
  unfold closeIfRead; split <;> rfl
@[simp] theorem closeIfRead_bank2 : (closeIfRead s).bank2 = s.bank2 := by
  unfold closeIfRead; split <;> rfl
@[simp] theorem closeIfRead_host : (closeIfRead s).host = s.host := by
  unfold closeIfRead; split <;> rfl
@[simp] theorem closeIfRead_probe : (closeIfRead s).probe = s.probe := by
  unfold closeIfRead; split <;> rfl
@[simp] theorem closeIfRead_par : (closeIfRead s).par = s.par := by
  unfold closeIfRead; split <;> rfl
@[simp] theorem closeIfRead_fresh : (closeIfRead s).fresh = s.fresh := by
  unfold closeIfRead; split <;> rfl

/-! ### `raise` -/

@[simp] theorem raise_syncMode : (raise x s).syncMode = s.syncMode := closeIfRead_syncMode s
@[simp] theorem raise_lock : (raise x s).lock = s.lock := closeIfRead_lock s
@[simp] theorem raise_first : (raise x s).first = s.first := closeIfRead_first s
@[simp] theorem raise_vbr : (raise x s).vbr = s.vbr := closeIfRead_vbr s
@[simp] theorem raise_chsel : (raise x s).chsel = s.chsel := closeIfRead_chsel s
@[simp] theorem raise_phase : (raise x s).phase = s.phase := closeIfRead_phase s
@[simp] theorem raise_h : (raise x s).h = s.h := closeIfRead_h s
@[simp] theorem raise_hdr : (raise x s).hdr = s.hdr := closeIfRead_hdr s
@[simp] theorem raise_geo : (raise x s).geo = s.geo := closeIfRead_geo s
@[simp] theorem raise_bitpos : (raise x s).bitpos = s.bitpos := closeIfRead_bitpos s
@[simp] theorem raise_crcAttached : (raise x s).crcAttached = s.crcAttached := closeIfRead_crcAttached s
@[simp] theorem raise_crcField : (raise x s).crcField = s.crcField := closeIfRead_crcField s
@[simp] theorem raise_crcAcc : (raise x s).crcAcc = s.crcAcc := closeIfRead_crcAcc s
@[simp] theorem raise_gateOk : (raise x s).gateOk = s.gateOk := closeIfRead_gateOk s
@[simp] theorem raise_sbi : (raise x s).sbi = s.sbi := closeIfRead_sbi s
@[simp] theorem raise_rep : (raise x s).rep = s.rep := closeIfRead_rep s
@[simp] theorem raise_chan : (raise x s).chan = s.chan := closeIfRead_chan s
@[simp] theorem raise_stream : (raise x s).stream = s.stream := closeIfRead_stream s
@[simp] theorem raise_pos : (raise x s).pos = s.pos := closeIfRead_pos s
@[simp] theorem raise_io : (raise x s).io = s.io := closeIfRead_io s
@[simp] theorem raise_bank1 : (raise x s).bank1 = s.bank1 := closeIfRead_bank1 s
@[simp] theorem raise_bank2 : (raise x s).bank2 = s.bank2 := closeIfRead_bank2 s
@[simp] theorem raise_host : (raise x s).host = s.host := closeIfRead_host s
@[simp] theorem raise_probe : (raise x s).probe = s.probe := closeIfRead_probe s
@[simp] theorem raise_par : (raise x s).par = s.par := closeIfRead_par s
@[simp] theorem raise_fresh : (raise x s).fresh = s.fresh := closeIfRead_fresh s

/-! ### `startFrame` -/

@[simp] theorem startFrame_syncMode : (startFrame s).syncMode = s.syncMode := rfl
@[simp] theorem startFrame_lock : (startFrame s).lock = s.lock := rfl
@[simp] theorem startFrame_first : (startFrame s).first = s.first := rfl
@[simp] theorem startFrame_vbr : (startFrame s).vbr = s.vbr := rfl
@[simp] theorem startFrame_chsel : (startFrame s).chsel = s.chsel := rfl
@[simp] theorem startFrame_faults : (startFrame s).faults = s.faults := rfl
@[simp] theorem startFrame_last : (startFrame s).last = s.last := rfl
@[simp] theorem startFrame_stream : (startFrame s).stream = s.stream := rfl
@[simp] theorem startFrame_pos : (startFrame s).pos = s.pos := rfl
@[simp] theorem startFrame_io : (startFrame s).io = s.io := rfl
@[simp] theorem startFrame_host : (startFrame s).host = s.host := rfl
@[simp] theorem startFrame_par : (startFrame s).par = s.par := rfl
@[simp] theorem startFrame_fresh : (startFrame s).fresh = s.fresh := rfl

/-! ### `setSubband` -/

@[simp] theorem setSubband_syncMode : (setSubband i g s).syncMode = s.syncMode := rfl
@[simp] theorem setSubband_lock : (setSubband i g s).lock = s.lock := rfl
@[simp] theorem setSubband_first : (setSubband i g s).first = s.first := rfl
@[simp] theorem setSubband_vbr : (setSubband i g s).vbr = s.vbr := rfl
@[simp] theorem setSubband_chsel : (setSubband i g s).chsel = s.chsel := rfl
@[simp] theorem setSubband_top : (setSubband i g s).top = s.top := rfl
@[simp] theorem setSubband_phase : (setSubband i g s).phase = s.phase := rfl
@[simp] theorem setSubband_faults : (setSubband i g s).faults = s.faults := rfl
@[simp] theorem setSubband_last : (setSubband i g s).last = s.last := rfl
@[simp] theorem setSubband_h : (setSubband i g s).h = s.h := rfl
@[simp] theorem setSubband_hdr : (setSubband i g s).hdr = s.hdr := rfl
@[simp] theorem setSubband_geo : (setSubband i g s).geo = s.geo := rfl
@[simp] theorem setSubband_fb : (setSubband i g s).fb = s.fb := rfl
@[simp] theorem setSubband_bitpos : (setSubband i g s).bitpos = s.bitpos := rfl
@[simp] theorem setSubband_crcAttached : (setSubband i g s).crcAttached = s.crcAttached := rfl
@[simp] theorem setSubband_crcField : (setSubband i g s).crcField = s.crcField := rfl
@[simp] theorem setSubband_crcAcc : (setSubband i g s).crcAcc = s.crcAcc := rfl
@[simp] theorem setSubband_gateOk : (setSubband i g s).gateOk = s.gateOk := rfl
@[simp] theorem setSubband_sbi : (setSubband i g s).sbi = s.sbi := rfl
@[simp] theorem setSubband_rep : (setSubband i g s).rep = s.rep := rfl
@[simp] theorem setSubband_chan : (setSubband i g s).chan = s.chan := rfl
@[simp] theorem setSubband_stream : (setSubband i g s).stream = s.stream := rfl
@[simp] theorem setSubband_pos : (setSubband i g s).pos = s.pos := rfl
@[simp] theorem setSubband_io : (setSubband i g s).io = s.io := rfl
@[simp] theorem setSubband_bank1 : (setSubband i g s).bank1 = s.bank1 := rfl
@[simp] theorem setSubband_bank2 : (setSubband i g s).bank2 = s.bank2 := rfl
@[simp] theorem setSubband_hist : (setSubband i g s).hist = s.hist := rfl
@[simp] theorem setSubband_host : (setSubband i g s).host = s.host := rfl
@[simp] theorem setSubband_probe : (setSubband i g s).probe = s.probe := rfl
@[simp] theorem setSubband_par : (setSubband i g s).par = s.par := rfl
@[simp] theorem setSubband_fresh : (setSubband i g s).fresh = s.fresh := rfl

/-! ### `nextSlot` -/

@[simp] theorem nextSlot_syncMode : (nextSlot b s).syncMode = s.syncMode := by unfold nextSlot; split <;> rfl
@[simp] theorem nextSlot_lock : (nextSlot b s).lock = s.lock := by unfold nextSlot; split <;> rfl
@[simp] theorem nextSlot_first : (nextSlot b s).first = s.first := by unfold nextSlot; split <;> rfl
@[simp] theorem nextSlot_vbr : (nextSlot b s).vbr = s.vbr := by unfold nextSlot; split <;> rfl
@[simp] theorem nextSlot_chsel : (nextSlot b s).chsel = s.chsel := by unfold nextSlot; split <;> rfl
@[simp] theorem nextSlot_top : (nextSlot b s).top = s.top := by unfold nextSlot; split <;> rfl
@[simp] theorem nextSlot_phase : (nextSlot b s).phase = s.phase := by unfold nextSlot; split <;> rfl
@[simp] theorem nextSlot_faults : (nextSlot b s).faults = s.faults := by unfold nextSlot; split <;> rfl
@[simp] theorem nextSlot_last : (nextSlot b s).last = s.last := by unfold nextSlot; split <;> rfl
@[simp] theorem nextSlot_h : (nextSlot b s).h = s.h := by unfold nextSlot; split <;> rfl
@[simp] theorem nextSlot_hdr : (nextSlot b s).hdr = s.hdr := by unfold nextSlot; split <;> rfl
@[simp] theorem nextSlot_geo : (nextSlot b s).geo = s.geo := by unfold nextSlot; split <;> rfl
@[simp] theorem nextSlot_fb : (nextSlot b s).fb = s.fb := by unfold nextSlot; split <;> rfl
@[simp] theorem nextSlot_bitpos : (nextSlot b s).bitpos = s.bitpos := by unfold nextSlot; split <;> rfl
@[simp] theorem nextSlot_crcAttached : (nextSlot b s).crcAttached = s.crcAttached := by unfold nextSlot; split <;> rfl
@[simp] theorem nextSlot_crcField : (nextSlot b s).crcField = s.crcField := by unfold nextSlot; split <;> rfl
@[simp] theorem nextSlot_crcAcc : (nextSlot b s).crcAcc = s.crcAcc := by unfold nextSlot; split <;> rfl
@[simp] theorem nextSlot_gateOk : (nextSlot b s).gateOk = s.gateOk := by unfold nextSlot; split <;> rfl
@[simp] theorem nextSlot_sb : (nextSlot b s).sb = s.sb := by unfold nextSlot; split <;> rfl
@[simp] theorem nextSlot_rep : (nextSlot b s).rep = s.rep := by unfold nextSlot; split <;> rfl
@[simp] theorem nextSlot_stream : (nextSlot b s).stream = s.stream := by unfold nextSlot; split <;> rfl
@[simp] theorem nextSlot_pos : (nextSlot b s).pos = s.pos := by unfold nextSlot; split <;> rfl
@[simp] theorem nextSlot_io : (nextSlot b s).io = s.io := by unfold nextSlot; split <;> rfl
@[simp] theorem nextSlot_bank1 : (nextSlot b s).bank1 = s.bank1 := by unfold nextSlot; split <;> rfl
@[simp] theorem nextSlot_bank2 : (nextSlot b s).bank2 = s.bank2 := by unfold nextSlot; split <;> rfl
@[simp] theorem nextSlot_hist : (nextSlot b s).hist = s.hist := by unfold nextSlot; split <;> rfl
@[simp] theorem nextSlot_host : (nextSlot b s).host = s.host := by unfold nextSlot; split <;> rfl
@[simp] theorem nextSlot_probe : (nextSlot b s).probe = s.probe := by unfold nextSlot; split <;> rfl
@[simp] theorem nextSlot_par : (nextSlot b s).par = s.par := by unfold nextSlot; split <;> rfl
@[simp] theorem nextSlot_fresh : (nextSlot b s).fresh = s.fresh := by unfold nextSlot; split <;> rfl

/-! ### `skInput` -/

@[simp] theorem skInput_syncMode : (skInput k i v s).syncMode = s.syncMode := by cases k <;> rfl
@[simp] theorem skInput_lock : (skInput k i v s).lock = s.lock := by cases k <;> rfl
@[simp] theorem skInput_first : (skInput k i v s).first = s.first := by cases k <;> rfl
@[simp] theorem skInput_vbr : (skInput k i v s).vbr = s.vbr := by cases k <;> rfl
@[simp] theorem skInput_chsel : (skInput k i v s).chsel = s.chsel := by cases k <;> rfl
@[simp] theorem skInput_top : (skInput k i v s).top = s.top := by cases k <;> rfl
@[simp] theorem skInput_phase : (skInput k i v s).phase = s.phase := by cases k <;> rfl
@[simp] theorem skInput_faults : (skInput k i v s).faults = s.faults := by cases k <;> rfl
@[simp] theorem skInput_last : (skInput k i v s).last = s.last := by cases k <;> rfl
@[simp] theorem skInput_h : (skInput k i v s).h = s.h := by cases k <;> rfl
@[simp] theorem skInput_hdr : (skInput k i v s).hdr = s.hdr := by cases k <;> rfl
@[simp] theorem skInput_geo : (skInput k i v s).geo = s.geo := by cases k <;> rfl
@[simp] theorem skInput_fb : (skInput k i v s).fb = s.fb := by cases k <;> rfl
@[simp] theorem skInput_bitpos : (skInput k i v s).bitpos = s.bitpos := by cases k <;> rfl
@[simp] theorem skInput_crcAttached : (skInput k i v s).crcAttached = s.crcAttached := by cases k <;> rfl
@[simp] theorem skInput_crcField : (skInput k i v s).crcField = s.crcField := by cases k <;> rfl
@[simp] theorem skInput_crcAcc : (skInput k i v s).crcAcc = s.crcAcc := by cases k <;> rfl
@[simp] theorem skInput_gateOk : (skInput k i v s).gateOk = s.gateOk := by cases k <;> rfl
@[simp] theorem skInput_sb : (skInput k i v s).sb = s.sb := by cases k <;> rfl
@[simp] theorem skInput_sbi : (skInput k i v s).sbi = s.sbi := by cases k <;> rfl
@[simp] theorem skInput_rep : (skInput k i v s).rep = s.rep := by cases k <;> rfl
@[simp] theorem skInput_chan : (skInput k i v s).chan = s.chan := by cases k <;> rfl
@[simp] theorem skInput_stream : (skInput k i v s).stream = s.stream := by cases k <;> rfl
@[simp] theorem skInput_pos : (skInput k i v s).pos = s.pos := by cases k <;> rfl
@[simp] theorem skInput_io : (skInput k i v s).io = s.io := by cases k <;> rfl
@[simp] theorem skInput_host : (skInput k i v s).host = s.host := by cases k <;> rfl
@[simp] theorem skInput_probe : (skInput k i v s).probe = s.probe := by cases k <;> rfl
@[simp] theorem skInput_par : (skInput k i v s).par = s.par := by cases k <;> rfl
@[simp] theorem skInput_fresh : (skInput k i v s).fresh = s.fresh := by cases k <;> rfl

/-! ### `skFlush` -/

@[simp] theorem skFlush_syncMode : (skFlush k s).syncMode = s.syncMode := by cases k <;> rfl
@[simp] theorem skFlush_lock : (skFlush k s).lock = s.lock := by cases k <;> rfl
@[simp] theorem skFlush_first : (skFlush k s).first = s.first := by cases k <;> rfl
@[simp] theorem skFlush_vbr : (skFlush k s).vbr = s.vbr := by cases k <;> rfl
@[simp] theorem skFlush_chsel : (skFlush k s).chsel = s.chsel := by cases k <;> rfl
@[simp] theorem skFlush_top : (skFlush k s).top = s.top := by cases k <;> rfl
@[simp] theorem skFlush_phase : (skFlush k s).phase = s.phase := by cases k <;> rfl
@[simp] theorem skFlush_faults : (skFlush k s).faults = s.faults := by cases k <;> rfl
@[simp] theorem skFlush_last : (skFlush k s).last = s.last := by cases k <;> rfl
@[simp] theorem skFlush_h : (skFlush k s).h = s.h := by cases k <;> rfl
@[simp] theorem skFlush_hdr : (skFlush k s).hdr = s.hdr := by cases k <;> rfl
@[simp] theorem skFlush_geo : (skFlush k s).geo = s.geo := by cases k <;> rfl
@[simp] theorem skFlush_fb : (skFlush k s).fb = s.fb := by cases k <;> rfl
@[simp] theorem skFlush_bitpos : (skFlush k s).bitpos = s.bitpos := by cases k <;> rfl
@[simp] theorem skFlush_crcAttached : (skFlush k s).crcAttached = s.crcAttached := by cases k <;> rfl
@[simp] theorem skFlush_crcField : (skFlush k s).crcField = s.crcField := by cases k <;> rfl
@[simp] theorem skFlush_crcAcc : (skFlush k s).crcAcc = s.crcAcc := by cases k <;> rfl
@[simp] theorem skFlush_gateOk : (skFlush k s).gateOk = s.gateOk := by cases k <;> rfl
@[simp] theorem skFlush_sb : (skFlush k s).sb = s.sb := by cases k <;> rfl
@[simp] theorem skFlush_sbi : (skFlush k s).sbi = s.sbi := by cases k <;> rfl
@[simp] theorem skFlush_rep : (skFlush k s).rep = s.rep := by cases k <;> rfl
@[simp] theorem skFlush_chan : (skFlush k s).chan = s.chan := by cases k <;> rfl
@[simp] theorem skFlush_stream : (skFlush k s).stream = s.stream := by cases k <;> rfl
@[simp] theorem skFlush_pos : (skFlush k s).pos = s.pos := by cases k <;> rfl
@[simp] theorem skFlush_io : (skFlush k s).io = s.io := by cases k <;> rfl
@[simp] theorem skFlush_host : (skFlush k s).host = s.host := by cases k <;> rfl
@[simp] theorem skFlush_probe : (skFlush k s).probe = s.probe := by cases k <;> rfl
@[simp] theorem skFlush_par : (skFlush k s).par = s.par := by cases k <;> rfl
@[simp] theorem skFlush_fresh : (skFlush k s).fresh = s.fresh := by cases k <;> rfl

/-! ### `forward` -/

@[simp] theorem forward_syncMode : (forward m i v v2 s).syncMode = s.syncMode := by
  unfold forward; split <;> split <;> (try split) <;> simp
@[simp] theorem forward_lock : (forward m i v v2 s).lock = s.lock := by
  unfold forward; split <;> split <;> (try split) <;> simp
@[simp] theorem forward_first : (forward m i v v2 s).first = s.first := by
  unfold forward; split <;> split <;> (try split) <;> simp
@[simp] theorem forward_vbr : (forward m i v v2 s).vbr = s.vbr := by
  unfold forward; split <;> split <;> (try split) <;> simp
@[simp] theorem forward_chsel : (forward m i v v2 s).chsel = s.chsel := by
  unfold forward; split <;> split <;> (try split) <;> simp
@[simp] theorem forward_top : (forward m i v v2 s).top = s.top := by
  unfold forward; split <;> split <;> (try split) <;> simp
@[simp] theorem forward_phase : (forward m i v v2 s).phase = s.phase := by
  unfold forward; split <;> split <;> (try split) <;> simp
@[simp] theorem forward_faults : (forward m i v v2 s).faults = s.faults := by
  unfold forward; split <;> split <;> (try split) <;> simp
@[simp] theorem forward_last : (forward m i v v2 s).last = s.last := by
  unfold forward; split <;> split <;> (try split) <;> simp
@[simp] theorem forward_h : (forward m i v v2 s).h = s.h := by
  unfold forward; split <;> split <;> (try split) <;> simp
@[simp] theorem forward_hdr : (forward m i v v2 s).hdr = s.hdr := by
  unfold forward; split <;> split <;> (try split) <;> simp
@[simp] theorem forward_geo : (forward m i v v2 s).geo = s.geo := by
  unfold forward; split <;> split <;> (try split) <;> simp
@[simp] theorem forward_fb : (forward m i v v2 s).fb = s.fb := by
  unfold forward; split <;> split <;> (try split) <;> simp
@[simp] theorem forward_bitpos : (forward m i v v2 s).bitpos = s.bitpos := by
  unfold forward; split <;> split <;> (try split) <;> simp
@[simp] theorem forward_crcAttached : (forward m i v v2 s).crcAttached = s.crcAttached := by
  unfold forward; split <;> split <;> (try split) <;> simp
@[simp] theorem forward_crcField : (forward m i v v2 s).crcField = s.crcField := by
  unfold forward; split <;> split <;> (try split) <;> simp
@[simp] theorem forward_crcAcc : (forward m i v v2 s).crcAcc = s.crcAcc := by
  unfold forward; split <;> split <;> (try split) <;> simp
@[simp] theorem forward_gateOk : (forward m i v v2 s).gateOk = s.gateOk := by
  unfold forward; split <;> split <;> (try split) <;> simp
@[simp] theorem forward_sb : (forward m i v v2 s).sb = s.sb := by
  unfold forward; split <;> split <;> (try split) <;> simp
@[simp] theorem forward_sbi : (forward m i v v2 s).sbi = s.sbi := by
  unfold forward; split <;> split <;> (try split) <;> simp
@[simp] theorem forward_rep : (forward m i v v2 s).rep = s.rep := by
  unfold forward; split <;> split <;> (try split) <;> simp
@[simp] theorem forward_chan : (forward m i v v2 s).chan = s.chan := by
  unfold forward; split <;> split <;> (try split) <;> simp
@[simp] theorem forward_stream : (forward m i v v2 s).stream = s.stream := by
  unfold forward; split <;> split <;> (try split) <;> simp
@[simp] theorem forward_pos : (forward m i v v2 s).pos = s.pos := by
  unfold forward; split <;> split <;> (try split) <;> simp
@[simp] theorem forward_io : (forward m i v v2 s).io = s.io := by
  unfold forward; split <;> split <;> (try split) <;> simp
@[simp] theorem forward_host : (forward m i v v2 s).host = s.host := by
  unfold forward; split <;> split <;> (try split) <;> simp
@[simp] theorem forward_probe : (forward m i v v2 s).probe = s.probe := by
  unfold forward; split <;> split <;> (try split) <;> simp
@[simp] theorem forward_par : (forward m i v v2 s).par = s.par := by
  unfold forward; split <;> split <;> (try split) <;> simp
@[simp] theorem forward_fresh : (forward m i v v2 s).fresh = s.fresh := by
  unfold forward; split <;> split <;> (try split) <;> simp

/-! ### `flushSinks` -/

@[simp] theorem flushSinks_syncMode : (flushSinks m s).syncMode = s.syncMode := by
  unfold flushSinks; split <;> split <;> simp
@[simp] theorem flushSinks_lock : (flushSinks m s).lock = s.lock := by
  unfold flushSinks; split <;> split <;> simp
@[simp] theorem flushSinks_first : (flushSinks m s).first = s.first := by
  unfold flushSinks; split <;> split <;> simp
@[simp] theorem flushSinks_vbr : (flushSinks m s).vbr = s.vbr := by
  unfold flushSinks; split <;> split <;> simp
@[simp] theorem flushSinks_chsel : (flushSinks m s).chsel = s.chsel := by
  unfold flushSinks; split <;> split <;> simp
@[simp] theorem flushSinks_top : (flushSinks m s).top = s.top := by
  unfold flushSinks; split <;> split <;> simp
@[simp] theorem flushSinks_phase : (flushSinks m s).phase = s.phase := by
  unfold flushSinks; split <;> split <;> simp
@[simp] theorem flushSinks_faults : (flushSinks m s).faults = s.faults := by
  unfold flushSinks; split <;> split <;> simp
@[simp] theorem flushSinks_last : (flushSinks m s).last = s.last := by
  unfold flushSinks; split <;> split <;> simp
@[simp] theorem flushSinks_h : (flushSinks m s).h = s.h := by
  unfold flushSinks; split <;> split <;> simp
@[simp] theorem flushSinks_hdr : (flushSinks m s).hdr = s.hdr := by
  unfold flushSinks; split <;> split <;> simp
@[simp] theorem flushSinks_geo : (flushSinks m s).geo = s.geo := by
  unfold flushSinks; split <;> split <;> simp
@[simp] theorem flushSinks_fb : (flushSinks m s).fb = s.fb := by
  unfold flushSinks; split <;> split <;> simp
@[simp] theorem flushSinks_bitpos : (flushSinks m s).bitpos = s.bitpos := by
  unfold flushSinks; split <;> split <;> simp
@[simp] theorem flushSinks_crcAttached : (flushSinks m s).crcAttached = s.crcAttached := by
  unfold flushSinks; split <;> split <;> simp
@[simp] theorem flushSinks_crcField : (flushSinks m s).crcField = s.crcField := by
  unfold flushSinks; split <;> split <;> simp
@[simp] theorem flushSinks_crcAcc : (flushSinks m s).crcAcc = s.crcAcc := by
  unfold flushSinks; split <;> split <;> simp
@[simp] theorem flushSinks_gateOk : (flushSinks m s).gateOk = s.gateOk := by
  unfold flushSinks; split <;> split <;> simp
@[simp] theorem flushSinks_sb : (flushSinks m s).sb = s.sb := by
  unfold flushSinks; split <;> split <;> simp
@[simp] theorem flushSinks_sbi : (flushSinks m s).sbi = s.sbi := by
  unfold flushSinks; split <;> split <;> simp
@[simp] theorem flushSinks_rep : (flushSinks m s).rep = s.rep := by
  unfold flushSinks; split <;> split <;> simp
@[simp] theorem flushSinks_chan : (flushSinks m s).chan = s.chan := by
  unfold flushSinks; split <;> split <;> simp
@[simp] theorem flushSinks_stream : (flushSinks m s).stream = s.stream := by
  unfold flushSinks; split <;> split <;> simp
@[simp] theorem flushSinks_pos : (flushSinks m s).pos = s.pos := by
  unfold flushSinks; split <;> split <;> simp
@[simp] theorem flushSinks_io : (flushSinks m s).io = s.io := by
  unfold flushSinks; split <;> split <;> simp
@[simp] theorem flushSinks_host : (flushSinks m s).host = s.host := by
  unfold flushSinks; split <;> split <;> simp
@[simp] theorem flushSinks_probe : (flushSinks m s).probe = s.probe := by
  unfold flushSinks; split <;> split <;> simp
@[simp] theorem flushSinks_par : (flushSinks m s).par = s.par := by
  unfold flushSinks; split <;> split <;> simp
@[simp] theorem flushSinks_fresh : (flushSinks m s).fresh = s.fresh := by
  unfold flushSinks; split <;> split <;> simp

/-! ### `rejectShort` -/

@[simp] theorem rejectShort_syncMode : (rejectShort s).syncMode = s.syncMode := rfl
@[simp] theorem rejectShort_lock : (rejectShort s).lock = s.lock := rfl
@[simp] theorem rejectShort_first : (rejectShort s).first = s.first := rfl
@[simp] theorem rejectShort_vbr : (rejectShort s).vbr = s.vbr := rfl
@[simp] theorem rejectShort_chsel : (rejectShort s).chsel = s.chsel := rfl
@[simp] theorem rejectShort_top : (rejectShort s).top = s.top := rfl
@[simp] theorem rejectShort_faults : (rejectShort s).faults = s.faults := rfl
@[simp] theorem rejectShort_last : (rejectShort s).last = s.last := rfl
@[simp] theorem rejectShort_h : (rejectShort s).h = s.h := rfl
@[simp] theorem rejectShort_hdr : (rejectShort s).hdr = s.hdr := rfl
@[simp] theorem rejectShort_geo : (rejectShort s).geo = s.geo := rfl
@[simp] theorem rejectShort_bitpos : (rejectShort s).bitpos = s.bitpos := rfl
@[simp] theorem rejectShort_crcAttached : (rejectShort s).crcAttached = s.crcAttached := rfl
@[simp] theorem rejectShort_crcField : (rejectShort s).crcField = s.crcField := rfl
@[simp] theorem rejectShort_crcAcc : (rejectShort s).crcAcc = s.crcAcc := rfl
@[simp] theorem rejectShort_gateOk : (rejectShort s).gateOk = s.gateOk := rfl
@[simp] theorem rejectShort_sb : (rejectShort s).sb = s.sb := rfl
@[simp] theorem rejectShort_sbi : (rejectShort s).sbi = s.sbi := rfl
@[simp] theorem rejectShort_rep : (rejectShort s).rep = s.rep := rfl
@[simp] theorem rejectShort_chan : (rejectShort s).chan = s.chan := rfl
@[simp] theorem rejectShort_stream : (rejectShort s).stream = s.stream := rfl
@[simp] theorem rejectShort_pos : (rejectShort s).pos = s.pos := rfl
@[simp] theorem rejectShort_io : (rejectShort s).io = s.io := rfl
@[simp] theorem rejectShort_bank1 : (rejectShort s).bank1 = s.bank1 := rfl
@[simp] theorem rejectShort_bank2 : (rejectShort s).bank2 = s.bank2 := rfl
@[simp] theorem rejectShort_host : (rejectShort s).host = s.host := rfl
@[simp] theorem rejectShort_probe : (rejectShort s).probe = s.probe := rfl
@[simp] theorem rejectShort_par : (rejectShort s).par = s.par := rfl
@[simp] theorem rejectShort_fresh : (rejectShort s).fresh = s.fresh := rfl

/-! ### `rejectStrict` -/

@[simp] theorem rejectStrict_syncMode : (rejectStrict s).syncMode = s.syncMode := rfl
@[simp] theorem rejectStrict_lock : (rejectStrict s).lock = s.lock := rfl
@[simp] theorem rejectStrict_first : (rejectStrict s).first = s.first := rfl
@[simp] theorem rejectStrict_vbr : (rejectStrict s).vbr = s.vbr := rfl
@[simp] theorem rejectStrict_chsel : (rejectStrict s).chsel = s.chsel := rfl
@[simp] theorem rejectStrict_top : (rejectStrict s).top = s.top := rfl
@[simp] theorem rejectStrict_faults : (rejectStrict s).faults = s.faults := rfl
@[simp] theorem rejectStrict_last : (rejectStrict s).last = s.last := rfl
@[simp] theorem rejectStrict_h : (rejectStrict s).h = s.h := rfl
@[simp] theorem rejectStrict_hdr : (rejectStrict s).hdr = s.hdr := rfl
@[simp] theorem rejectStrict_geo : (rejectStrict s).geo = s.geo := rfl
@[simp] theorem rejectStrict_bitpos : (rejectStrict s).bitpos = s.bitpos := rfl
@[simp] theorem rejectStrict_crcAttached : (rejectStrict s).crcAttached = s.crcAttached := rfl
@[simp] theorem rejectStrict_crcField : (rejectStrict s).crcField = s.crcField := rfl
@[simp] theorem rejectStrict_crcAcc : (rejectStrict s).crcAcc = s.crcAcc := rfl
@[simp] theorem rejectStrict_gateOk : (rejectStrict s).gateOk = s.gateOk := rfl
@[simp] theorem rejectStrict_sb : (rejectStrict s).sb = s.sb := rfl
@[simp] theorem rejectStrict_sbi : (rejectStrict s).sbi = s.sbi := rfl
@[simp] theorem rejectStrict_rep : (rejectStrict s).rep = s.rep := rfl
@[simp] theorem rejectStrict_chan : (rejectStrict s).chan = s.chan := rfl
@[simp] theorem rejectStrict_stream : (rejectStrict s).stream = s.stream := rfl
@[simp] theorem rejectStrict_io : (rejectStrict s).io = s.io := rfl
@[simp] theorem rejectStrict_bank1 : (rejectStrict s).bank1 = s.bank1 := rfl
@[simp] theorem rejectStrict_bank2 : (rejectStrict s).bank2 = s.bank2 := rfl
@[simp] theorem rejectStrict_host : (rejectStrict s).host = s.host := rfl
@[simp] theorem rejectStrict_probe : (rejectStrict s).probe = s.probe := rfl
@[simp] theorem rejectStrict_par : (rejectStrict s).par = s.par := rfl
@[simp] theorem rejectStrict_fresh : (rejectStrict s).fresh = s.fresh := rfl

/-! ### `startSamples` -/

@[simp] theorem startSamples_syncMode : (startSamples s).syncMode = s.syncMode := rfl
@[simp] theorem startSamples_lock : (startSamples s).lock = s.lock := rfl
@[simp] theorem startSamples_first : (startSamples s).first = s.first := rfl
@[simp] theorem startSamples_vbr : (startSamples s).vbr = s.vbr := rfl
@[simp] theorem startSamples_chsel : (startSamples s).chsel = s.chsel := rfl
@[simp] theorem startSamples_top : (startSamples s).top = s.top := rfl
@[simp] theorem startSamples_faults : (startSamples s).faults = s.faults := rfl
@[simp] theorem startSamples_last : (startSamples s).last = s.last := rfl
@[simp] theorem startSamples_h : (startSamples s).h = s.h := rfl
@[simp] theorem startSamples_hdr : (startSamples s).hdr = s.hdr := rfl
@[simp] theorem startSamples_geo : (startSamples s).geo = s.geo := rfl
@[simp] theorem startSamples_fb : (startSamples s).fb = s.fb := rfl
@[simp] theorem startSamples_bitpos : (startSamples s).bitpos = s.bitpos := rfl
@[simp] theorem startSamples_crcAttached : (startSamples s).crcAttached = s.crcAttached := rfl
@[simp] theorem startSamples_crcField : (startSamples s).crcField = s.crcField := rfl
@[simp] theorem startSamples_crcAcc : (startSamples s).crcAcc = s.crcAcc := rfl
@[simp] theorem startSamples_gateOk : (startSamples s).gateOk = s.gateOk := rfl
@[simp] theorem startSamples_sb : (startSamples s).sb = s.sb := rfl
@[simp] theorem startSamples_stream : (startSamples s).stream = s.stream := rfl
@[simp] theorem startSamples_pos : (startSamples s).pos = s.pos := rfl
@[simp] theorem startSamples_io : (startSamples s).io = s.io := rfl
@[simp] theorem startSamples_bank1 : (startSamples s).bank1 = s.bank1 := rfl
@[simp] theorem startSamples_bank2 : (startSamples s).bank2 = s.bank2 := rfl
@[simp] theorem startSamples_hist : (startSamples s).hist = s.hist := rfl
@[simp] theorem startSamples_host : (startSamples s).host = s.host := rfl
@[simp] theorem startSamples_probe : (startSamples s).probe = s.probe := rfl
@[simp] theorem startSamples_par : (startSamples s).par = s.par := rfl
@[simp] theorem startSamples_fresh : (startSamples s).fresh = s.fresh := rfl

/-! ### Fields an operation writes -/

@[simp] theorem logEvent_hist (e : Event) (s : State) : (logEvent e s).hist = s.hist ++ [e] := rfl
@[simp] theorem rdClose_fb (s : State) : (rdClose s).fb = [] := rfl
@[simp] theorem rdClose_hist (s : State) : (rdClose s).hist = s.hist ++ [.rdClose] := rfl
@[simp] theorem rdUnread_fb (s : State) : (rdUnread s).fb = [] := rfl
@[simp] theorem rdUnread_hist (s : State) : (rdUnread s).hist = s.hist ++ [.rdUnread] := rfl
@[simp] theorem failIo_io (s : State) : (failIo s).io = s.io.tail := rfl
@[simp] theorem raise_sb (e : Exc) (s : State) : (raise e s).sb = blankSubbands := rfl
@[simp] theorem raise_faults (e : Exc) (s : State) : (raise e s).faults = addFault e s.faults := rfl
@[simp] theorem raise_last (e : Exc) (s : State) : (raise e s).last = .exc e := rfl
@[simp] theorem raise_top (e : Exc) (s : State) : (raise e s).top = excTop e := rfl
@[simp] theorem startFrame_top (s : State) : (startFrame s).top = .busy := rfl
@[simp] theorem startFrame_phase (s : State) : (startFrame s).phase = .sync := rfl
@[simp] theorem startFrame_hist (s : State) : (startFrame s).hist = [] := rfl
@[simp] theorem startFrame_fb (s : State) : (startFrame s).fb = [] := rfl
@[simp] theorem setSubband_sb (i : Nat) (e : SubbandRegs) (s : State) :
    (setSubband i e s).sb = s.sb.setIfInBounds i e := rfl
@[simp] theorem startSamples_phase (s : State) : (startSamples s).phase = .samples := rfl
@[simp] theorem startSamples_rep (s : State) : (startSamples s).rep = 0 := rfl
@[simp] theorem startSamples_sbi (s : State) : (startSamples s).sbi = 0 := rfl
@[simp] theorem startSamples_chan (s : State) : (startSamples s).chan = .ch1 := rfl

/-- A raised exception leaves no body: it was closed, or there was none. -/
@[simp] theorem raise_fb (e : Exc) (s : State) : (raise e s).fb = [] := by
  show (closeIfRead s).fb = []
  unfold closeIfRead
  split
  · rfl
  · rename_i h
    exact List.eq_nil_of_length_eq_zero (by omega)

/-- A raised exception is not served with the block busy. -/
theorem excTop_ne_busy (e : Exc) : excTop e ≠ .busy := by cases e <;> simp [excTop]

end Sys2Proof.Machine
end

