-- ==== Sys2Proof/Laws/Ops.lean ====
section
/-! SUPPORT. What each shared operation can do, said once: later proofs cite these and unfold no operation. -/

namespace Sys2Proof.Machine

open Sys2Proof

/-! ### Reads of registers that may hold "none" -/

@[simp] theorem require_some {α : Type} (r : Reg) (a : α) (k : α → Result) : require r (some a) k = k a := rfl
@[simp] theorem require_none {α : Type} (r : Reg) (k : α → Result) : require r none k = .fault (.readNone r) := rfl
@[simp] theorem fetchReg_some {α : Type} (r : Reg) (a : α) (k : α → Fetched) : fetchReg r (some a) k = k a := rfl
@[simp] theorem fetchReg_none {α : Type} (r : Reg) (k : α → Fetched) :
    fetchReg r none k = .stopped (.readNone r) := rfl

/-- A required read goes on exactly where the register holds a value. -/
theorem require_next {α : Type} {r : Reg} {o : Option α} {k : α → Result} {t : State} :
    require r o k = .next t ↔ ∃ a, o = some a ∧ k a = .next t := by
  cases o <;> simp

/-- A subband read goes on exactly inside the register file. -/
theorem withSubband_next {i : Nat} {s t : State} {k : SubbandRegs → Result} :
    withSubband i s k = .next t ↔ ∃ e, s.sb[i]? = some e ∧ k e = .next t := by
  unfold withSubband
  cases s.sb[i]? <;> simp

/-- A subband read inside the register file. -/
theorem withSubband_lt {i : Nat} {s : State} {k : SubbandRegs → Result} (h : i < 32) :
    withSubband i s k = k s.sb[i] := by
  simp [withSubband, h]

/-- A subband read of a known entry. -/
theorem withSubband_eq {i : Nat} {s : State} {e : SubbandRegs} {k : SubbandRegs → Result} (h : s.sb[i]? = some e) :
    withSubband i s k = k e := by
  simp [withSubband, h]

/-! ### Exceptions -/

/-- Everything `raise` does (spec/60_exceptions.md R371). -/
theorem raise_eq (e : Exc) (s : State) :
    raise e s =
      { s with
        fb := []
        hist := if 0 < s.fb.length then s.hist ++ [.rdClose] else s.hist
        sb := blankSubbands
        faults := addFault e s.faults
        last := .exc e
        top := excTop e } := by
  unfold raise closeIfRead rdClose logEvent
  split
  · rfl
  · rename_i h
    have : s.fb = [] := List.eq_nil_of_length_eq_zero (by omega)
    cases s; simp_all

/-- No exception clears a fault bit. -/
theorem addFault_mono (e : Exc) (f : BitVec 8) (n : Nat) (h : f.getLsbD n = true) :
    (addFault e f).getLsbD n = true := by
  unfold addFault
  split <;> simp [h]

/-- Bit 0 of `FAULTS` is no exception's. -/
theorem addFault_bit0 (e : Exc) (f : BitVec 8) : (addFault e f).getLsbD 0 = f.getLsbD 0 := by
  unfold addFault
  split
  · rfl
  · cases e <;> simp [excCode]

/-! ### The loop counters -/

/-- Everything `nextSlot` does. -/
theorem nextSlot_eq (second : Bool) (s : State) :
    nextSlot second s =
      { s with
        chan := if s.chan = .ch1 ∧ second = true then .ch2 else .ch1
        sbi := if s.chan = .ch1 ∧ second = true then s.sbi else s.sbi + 1 } := by
  unfold nextSlot
  split <;> simp_all

/-! ### `GetBits` -/

/-- A read that fits (spec/20_memory.md R77). -/
theorem getBits_fits {n : Nat} {s : State} (h : s.bitpos + n ≤ 8 * s.fb.length) :
    getBits n s =
      some (bitsAt s.fb s.bitpos n, { s with bitpos := s.bitpos + n, hist := s.hist ++ [.getBits n] }) := by
  unfold getBits
  rw [if_neg (by omega)]
  rfl

/-- A read that does not (spec/20_memory.md R83). -/
theorem getBits_over {n : Nat} {s : State} (h : 8 * s.fb.length < s.bitpos + n) : getBits n s = none := by
  unfold getBits
  rw [if_pos h]

/-- What the fetch of a body element can find. -/
theorem fetchBits_cases (k : Kind) (s : State) :
    (8 * s.fb.length < s.bitpos + k.width ∧ fetchBits k s = .ended (raise .frameOverrun s)) ∨
    (s.bitpos + k.width ≤ 8 * s.fb.length ∧
      fetchBits k s = decoded k ((bitsAt s.fb s.bitpos k.width).zeroExtend 32)
        { s with bitpos := s.bitpos + k.width, hist := s.hist ++ [.getBits k.width] }) := by
  by_cases h : 8 * s.fb.length < s.bitpos + k.width
  · exact .inl ⟨h, by simp [fetchBits, getBits_over h]⟩
  · exact .inr ⟨by omega, by simp [fetchBits, getBits_fits (Nat.le_of_not_lt h)]⟩

/-! ### The checksum fold -/

/-- Everything the fold does, where the accumulator is there exactly when it is attached. -/
theorem foldAlloc_eq {a : BitVec 4} {s : State} {k : State → Result} (h : s.crcAttached = s.crcAcc.isSome) :
    foldAlloc a s k = k { s with crcAcc := s.crcAcc.map (crcAdd s.par.crc · a.toNat 4) } := by
  unfold foldAlloc
  cases hc : s.crcAcc with
  | none => cases s; simp_all
  | some acc => simp_all

/-- The fold changes the accumulator only, in any state. -/
theorem foldAlloc_next {a : BitVec 4} {s t : State} {k : State → Result} (h : foldAlloc a s k = .next t) :
    ∃ acc, k { s with crcAcc := acc } = .next t := by
  unfold foldAlloc at h
  split at h
  · obtain ⟨acc, -, h⟩ := require_next.1 h
    exact ⟨_, h⟩
  · exact ⟨s.crcAcc, h⟩

/-! ### Allocation codes and scale-factor indices -/

/-- A legal allocation code, done (spec/44_alloc_scf.md R272, R274). -/
theorem storeAlloc_eq {a : BitVec 4} {s : State} {e : SubbandRegs} {v : Variant}
    (he : s.sb[s.sbi]? = some e) (hv : e.variant = some v) (hc : s.crcAttached = s.crcAcc.isSome) :
    storeAlloc a s =
      .next { s with
        crcAcc := s.crcAcc.map (crcAdd s.par.crc · a.toNat 4)
        sb := s.sb.setIfInBounds s.sbi (putAlloc s.chan a e)
        chan := if s.chan = .ch1 ∧ secondAlloc v = true then .ch2 else .ch1
        sbi := if s.chan = .ch1 ∧ secondAlloc v = true then s.sbi else s.sbi + 1 } := by
  simp [storeAlloc, withSubband_eq he, hv, foldAlloc_eq hc, nextSlot_eq, setSubband]

/-- The frame of a legal allocation code, in any state. -/
theorem storeAlloc_frame {a : BitVec 4} {s t : State} (h : storeAlloc a s = .next t) :
    t = { s with crcAcc := t.crcAcc, sb := t.sb, chan := t.chan, sbi := t.sbi } := by
  obtain ⟨e, -, h⟩ := withSubband_next.1 h
  obtain ⟨v, -, h⟩ := require_next.1 h
  obtain ⟨acc, h⟩ := foldAlloc_next h
  rw [nextSlot_eq] at h
  cases h
  rfl

/-- A scale-factor index, done (spec/44_alloc_scf.md R280). -/
theorem storeScf_eq {i : BitVec 6} {s : State} {e : SubbandRegs} {v : Variant}
    (he : s.sb[s.sbi]? = some e) (hv : e.variant = some v) :
    storeScf i s =
      .next { s with
        sb := s.sb.setIfInBounds s.sbi (putScf s.chan i e)
        chan := if s.chan = .ch1 ∧ secondScf v = true then .ch2 else .ch1
        sbi := if s.chan = .ch1 ∧ secondScf v = true then s.sbi else s.sbi + 1 } := by
  simp [storeScf, withSubband_eq he, hv, nextSlot_eq, setSubband]

/-- The frame of a scale-factor index, in any state. -/
theorem storeScf_frame {i : BitVec 6} {s t : State} (h : storeScf i s = .next t) :
    t = { s with sb := t.sb, chan := t.chan, sbi := t.sbi } := by
  obtain ⟨e, -, h⟩ := withSubband_next.1 h
  obtain ⟨v, -, h⟩ := require_next.1 h
  rw [nextSlot_eq] at h
  cases h
  rfl

/-! ### Samples -/

/-- A turn that is not the subband's last. -/
theorem finishSampleSlot_first {s : State} {e : SubbandRegs} {v : Variant} (he : s.sb[s.sbi]? = some e)
    (hv : e.variant = some v) (hc : s.chan = .ch1) (h2 : secondAlloc v = true) :
    finishSampleSlot s = .next { s with chan := .ch2 } := by
  simp [finishSampleSlot, withSubband_eq he, hv, hc, h2, nextSlot]

/-- A subband's last turn: its values are forwarded. -/
theorem finishSampleSlot_last {s : State} {e : SubbandRegs} {v : Variant} {g : Bool} {m : Mode} {v1 : Sample}
    {v2 : Option Sample} (he : s.sb[s.sbi]? = some e) (hv : e.variant = some v)
    (hc : ¬(s.chan = .ch1 ∧ secondAlloc v = true)) (hg : s.gateOk = some g) (hm : s.hdr.mode = some m)
    (hx : subbandValues s.par g v e = .ok (v1, v2)) :
    finishSampleSlot s = .next { forward m s.sbi v1 v2 s with chan := .ch1, sbi := s.sbi + 1 } := by
  simp [finishSampleSlot, withSubband_eq he, hv, hc, emitSubband, hg, hm, hx, nextSlot]

/-- The frame of the end of a turn, in any state. -/
theorem finishSampleSlot_frame {s t : State} (h : finishSampleSlot s = .next t) :
    t = { s with hist := t.hist, bank1 := t.bank1, bank2 := t.bank2, chan := t.chan, sbi := t.sbi } := by
  obtain ⟨e, -, h⟩ := withSubband_next.1 h
  obtain ⟨v, -, h⟩ := require_next.1 h
  split at h
  · rw [nextSlot_eq] at h
    cases h
    rfl
  · unfold emitSubband at h
    obtain ⟨g, -, h⟩ := require_next.1 h
    obtain ⟨m, -, h⟩ := require_next.1 h
    split at h
    · cases h
    · dsimp only at h
      rw [nextSlot_eq] at h
      cases h
      simp only [forward, skInput, logEvent]
      split <;> split <;> (try split) <;> rfl

/-- The frame of a sample code, in any state. -/
theorem storeSample_frame {r : BitVec 15} {s t : State} (h : storeSample r s = .next t) :
    t = { s with sb := t.sb, hist := t.hist, bank1 := t.bank1, bank2 := t.bank2, chan := t.chan, sbi := t.sbi } := by
  obtain ⟨e, -, h⟩ := withSubband_next.1 h
  have := finishSampleSlot_frame h
  rw [this]
  rfl

/-! ### The metadata blocks -/

/-- What a block leaves: VBR registers only, and an exception where it is corrupt. -/
theorem xingField_frame {present : Bool} {width : Nat} {store : Nat → State → State} {b : Block} {s : State}
    (hs : ∀ o u, ∃ r, store o u = { u with vbr := r })
    (hb : match b with
      | .going _ t => ∃ r, t = { s with vbr := r }
      | .corrupt t => ∃ r, t = raise .vbrHeaderCorrupt { s with vbr := r }) :
    match xingField present width store b with
    | .going _ t => ∃ r, t = { s with vbr := r }
    | .corrupt t => ∃ r, t = raise .vbrHeaderCorrupt { s with vbr := r } := by
  unfold xingField
  cases b with
  | corrupt t => exact hb
  | going o t =>
    obtain ⟨r, rfl⟩ := hb
    cases present with
    | false => exact ⟨r, rfl⟩
    | true =>
      simp only [needBytes, if_true]
      by_cases h : s.fb.length < o + width
      · rw [if_pos h]; exact ⟨r, rfl⟩
      · rw [if_neg h]; exact hs o { s with vbr := r }

/-- A field that is not flagged consumes nothing (spec/42_vbr.md R245). -/
theorem xingField_off (width : Nat) (store : Nat → State → State) (o : Nat) (s : State) :
    xingField false width store (.going o s) = .going o s := rfl

/-- A flagged field that fits is read at the running offset (spec/42_vbr.md R245). -/
theorem xingField_fits (width : Nat) (store : Nat → State → State) (o : Nat) (s : State)
    (h : o + width ≤ s.fb.length) : xingField true width store (.going o s) = .going (o + width) (store o s) := by
  simp [xingField, needBytes, Nat.not_lt.2 h]

/-- A flagged field that does not fit (spec/42_vbr.md R251). -/
theorem xingField_short (width : Nat) (store : Nat → State → State) (o : Nat) (s : State)
    (h : s.fb.length < o + width) :
    xingField true width store (.going o s) = .corrupt (raise .vbrHeaderCorrupt s) := by
  simp [xingField, needBytes, h]

/-- After a field that did not fit nothing more is read. -/
theorem xingField_corrupt (present : Bool) (width : Nat) (store : Nat → State → State) (s : State) :
    xingField present width store (.corrupt s) = .corrupt s := rfl

/-- The "Xing" block writes VBR registers only (spec/42_vbr.md R253). -/
theorem xingFields_frame (x : Nat) (s : State) :
    match xingFields x s with
    | .going _ t => ∃ r, t = { s with vbr := r }
    | .corrupt t => ∃ r, t = raise .vbrHeaderCorrupt { s with vbr := r } := by
  unfold xingFields needBytes
  by_cases h : s.fb.length < x + 8
  · rw [if_pos h]; exact ⟨s.vbr, rfl⟩
  · rw [if_neg h]
    exact xingField_frame (fun _ _ => ⟨_, rfl⟩) (xingField_frame (fun _ _ => ⟨_, rfl⟩)
      (xingField_frame (fun _ _ => ⟨_, rfl⟩) (xingField_frame (fun _ _ => ⟨_, rfl⟩) ⟨s.vbr, rfl⟩)))

/-- The "VBRI" block writes VBR registers only (spec/42_vbr.md R253). -/
theorem vbriFields_frame (s : State) :
    match vbriFields s with
    | .going _ t => ∃ r, t = { s with vbr := r }
    | .corrupt t => ∃ r, t = raise .vbrHeaderCorrupt { s with vbr := r } := by
  unfold vbriFields needBytes
  by_cases h : s.fb.length < 46
  · rw [if_pos h]; exact ⟨s.vbr, rfl⟩
  · rw [if_neg h]
    dsimp only
    by_cases h2 : (storeBytes 42 s).fb.length < 50
    · rw [if_pos h2]; exact ⟨_, rfl⟩
    · rw [if_neg h2]; exact ⟨_, rfl⟩

/-! ### The search -/

/-- A search that finds a word found the first one (spec/20_memory.md R75). -/
theorem scanFrom_found {mask : Word} {st : Stream} {mode : SyncMode} {lock : Word} {fuel p q : Nat} {w : Word}
    (h : scanFrom mask st mode lock fuel p = .found q w) :
    p ≤ q ∧ w = streamWord st q ∧ syncPred mask mode lock w = true ∧ (∀ e, st.len = some e → q + 4 ≤ e) ∧
      ∀ r, p ≤ r → r < q → syncPred mask mode lock (streamWord st r) = false := by
  induction fuel generalizing p with
  | zero => simp [scanFrom] at h
  | succ fuel ih =>
    simp only [scanFrom] at h
    split at h
    · simp at h
    · rename_i hl
      split at h
      · rename_i hp
        simp only [Scan.found.injEq] at h
        obtain ⟨rfl, rfl⟩ := h
        refine ⟨Nat.le_refl _, rfl, hp, fun e he => ?_, fun r h1 h2 => by omega⟩
        simp [bytesLeft, he] at hl
        omega
      · rename_i hp
        obtain ⟨h1, h2, h3, h4, h5⟩ := ih h
        refine ⟨by omega, h2, h3, h4, fun r hr1 hr2 => ?_⟩
        by_cases hr : r = p
        · subst hr; simpa using hp
        · exact h5 r (by omega) hr2

/-- A search that ends at the end of the stream met no matching word. -/
theorem scanFrom_end {mask : Word} {st : Stream} {mode : SyncMode} {lock : Word} {fuel p : Nat}
    (h : scanFrom mask st mode lock fuel p = .endOfStream) :
    ∃ e, st.len = some e ∧ ∀ r, p ≤ r → r + 4 ≤ e → syncPred mask mode lock (streamWord st r) = false := by
  induction fuel generalizing p with
  | zero => simp [scanFrom] at h
  | succ fuel ih =>
    simp only [scanFrom] at h
    split at h
    · rename_i hl
      cases he : st.len with
      | none => simp [bytesLeft, he] at hl
      | some e =>
        simp [bytesLeft, he] at hl
        exact ⟨e, rfl, fun r h1 h2 => by omega⟩
    · split at h
      · simp at h
      · rename_i hp
        obtain ⟨e, he, h5⟩ := ih h
        refine ⟨e, he, fun r hr1 hr2 => ?_⟩
        by_cases hr : r = p
        · subst hr; simpa using hp
        · exact h5 r (by omega) hr2

/-- With fuel for every offset left, a search of a finite stream answers. -/
theorem scanFrom_finite {mask : Word} {st : Stream} {mode : SyncMode} {lock : Word} {fuel p e : Nat} (he : st.len = some e)
    (hf : e - p < fuel) : scanFrom mask st mode lock fuel p ≠ .never := by
  induction fuel generalizing p with
  | zero => omega
  | succ fuel ih =>
    simp only [scanFrom]
    split
    · simp
    · rename_i hl
      simp [bytesLeft, he] at hl
      split
      · simp
      · exact ih (by omega)

/-- With fuel enough, a search finds the first matching word (spec/20_memory.md R75). -/
theorem scanFrom_first {mask : Word} {st : Stream} {mode : SyncMode} {lock : Word} {fuel p q : Nat} (hpq : p ≤ q)
    (hf : q < p + fuel) (he : ∀ e, st.len = some e → q + 4 ≤ e) (hq : syncPred mask mode lock (streamWord st q) = true)
    (hr : ∀ r, p ≤ r → r < q → syncPred mask mode lock (streamWord st r) = false) :
    scanFrom mask st mode lock fuel p = .found q (streamWord st q) := by
  induction fuel generalizing p with
  | zero => omega
  | succ fuel ih =>
    have hl : (bytesLeft st p).any (· < 4) = false := by
      cases h : st.len with
      | none => simp [bytesLeft, h]
      | some e =>
        have := he e h
        simp [bytesLeft, h]
        omega
    simp only [scanFrom, hl]
    by_cases h : p = q
    · subst h
      simp [hq]
    · rw [hr p (Nat.le_refl _) (by omega)]
      simpa using ih (by omega) (by omega) fun r h1 h2 => hr r (by omega) h2

/-- How the search step can answer. -/
theorem rdSync_cases (mode : SyncMode) (lock : Word) (s : State) :
    (ioFails s = true ∧ rdSync mode lock s = some (.ioError, logEvent (.rdSync .ioError) (failIo s))) ∨
    (ioFails s = false ∧ ∃ p w, scanFrom s.par.lockMask s.stream mode lock (scanFuel s.stream s.pos) s.pos = .found p w ∧
      rdSync mode lock s =
        some (.word w, { s with io := s.io.tail, pos := p + 4, hist := s.hist ++ [.rdSync (.word w)] })) ∨
    (ioFails s = false ∧ scanFrom s.par.lockMask s.stream mode lock (scanFuel s.stream s.pos) s.pos = .endOfStream ∧
      rdSync mode lock s =
        some (.endOfStream,
          { s with
            io := s.io.tail
            pos := s.stream.len.getD s.pos
            hist := s.hist ++ [.rdSync .endOfStream] })) ∨
    (ioFails s = false ∧ s.stream.len = none ∧ rdSync mode lock s = none) := by
  unfold rdSync
  cases hio : ioFails s with
  | true => simp
  | false =>
    cases hs : scanFrom s.par.lockMask s.stream mode lock (scanFuel s.stream s.pos) s.pos with
    | found p w => simp [logEvent]
    | endOfStream => simp [logEvent]
    | never =>
      cases he : s.stream.len with
      | none => simp
      | some e =>
        refine absurd hs (scanFrom_finite he ?_)
        simp [scanFuel, he]

/-- How the body read can answer. -/
theorem rdReadFrame_cases (n : Nat) (s : State) :
    (ioFails s = true ∧ rdReadFrame n s = (.ioError, logEvent (.rdReadFrame n .ioError) (failIo s))) ∨
    (ioFails s = false ∧ rdReadFrame n s =
      (.count (frameCount s.stream s.pos n),
        { s with
          io := s.io.tail
          fb := streamBytes s.stream s.pos (frameCount s.stream s.pos n)
          bitpos := 0
          pos := s.pos + frameCount s.stream s.pos n
          hist := s.hist ++ [.rdReadFrame n (.count (frameCount s.stream s.pos n))] })) := by
  unfold rdReadFrame
  cases ioFails s <;> simp [logEvent]

@[simp] theorem streamBytes_length (st : Stream) (p k : Nat) : (streamBytes st p k).length = k := by
  simp [streamBytes]

/-! ### Header words -/

/-- A header word without a fault (spec/41_header.md R190). -/
theorem headerWord_good {f : HdrFields} {v : Version} {l : Layer} (s : State) (hv : versionOf f.versionBits = some v)
    (hl : layerOf f.layerBits = some l) (hr : f.tail.sampleRateIndex ≠ 3#2)
    (hb : badBitrate f.tail.bitrateIndex = false) :
    headerWord f s =
      { s with
        hdr :=
          { version := some v
            layer := some l
            prot := some (!bit f.tail.protection)
            bitrateIndex := some f.tail.bitrateIndex
            srIndex := some f.tail.sampleRateIndex
            padding := some (bit f.tail.padding)
            mode := some (modeOf f.tail.channelMode)
            modeExt := some f.tail.modeExtension
            copyright := some (bit f.tail.copyright)
            original := some (bit f.tail.original) }
        geo := geometryOf s.par v l f.tail
        phase := .body } := by
  unfold headerWord
  rw [hv]
  simp only [hl, hr, hb, writeAfterRate, writeBeforeRate]
  rfl

/-- What a header word can do: complete, or raise with some header fields written. -/
theorem headerWord_cases (f : HdrFields) (s : State) :
    (∃ v l, versionOf f.versionBits = some v ∧ layerOf f.layerBits = some l ∧ f.tail.sampleRateIndex ≠ 3#2 ∧
      badBitrate f.tail.bitrateIndex = false) ∨
    (∃ e r, headerWord f s = raise e { s with hdr := r } ∧ excTop e = .halted ∧
      ((∃ k, e = .unsupported k) ∨ e = .refused .badBitrateIndex)) := by
  unfold headerWord
  cases hv : versionOf f.versionBits with
  | none => exact .inr ⟨_, s.hdr, rfl, rfl, .inl ⟨_, rfl⟩⟩
  | some v =>
    cases hl : layerOf f.layerBits with
    | none => exact .inr ⟨_, _, rfl, rfl, .inl ⟨_, rfl⟩⟩
    | some l =>
      by_cases hr : f.tail.sampleRateIndex = 3#2
      · exact .inr ⟨_, _, by simp only [if_pos hr]; rfl, rfl, .inl ⟨_, rfl⟩⟩
      · cases hb : badBitrate f.tail.bitrateIndex with
        | true => exact .inr ⟨_, _, by simp only [if_neg hr, if_true]; rfl, rfl, .inr rfl⟩
        | false => exact .inl ⟨v, l, rfl, rfl, hr, rfl⟩

end Sys2Proof.Machine
end

