-- ==== Sys2Proof/Laws/Decode.lean ====
section
/-! SUPPORT. Which element the decoder reads from which bits, and which shared operation each element's meaning is. -/

namespace Sys2Proof.Machine

open Sys2Proof

/-! ### Families of elements -/

/-- Every element belongs to one family. -/
theorem Instr_families (i : Instr) :
    (∃ f, i.headerFields = some f) ∨ (∃ c, i = .crcw c) ∨ (∃ a, i.allocCode = some a) ∨ (∃ x, i.scfIndex = some x) ∨
      (∃ n r, i.sampleCode = some (n, r)) ∨ i = .xing ∨ i = .vbri := by
  cases i <;> simp [Instr.headerFields, Instr.allocCode, Instr.scfIndex, Instr.sampleCode]

/-- A header element's meaning. -/
theorem exec_header {i : Instr} {f : HdrFields} (h : i.headerFields = some f) (s : State) :
    exec i s = .next (headerWord f s) := by
  cases i <;> simp only [Instr.headerFields, Option.some.injEq, reduceCtorEq] at h <;> subst h <;> rfl

/-- An allocation code's meaning. -/
theorem exec_alloc {i : Instr} {a : BitVec 4} (h : i.allocCode = some a) (s : State) :
    exec i s = if a = 15#4 then .next (raise (.illegalAllocation s.sbi s.chan) s) else storeAlloc a s := by
  cases i <;> simp only [Instr.allocCode, Option.some.injEq, reduceCtorEq] at h <;> subst h <;> rfl

/-- A scale-factor index's meaning. -/
theorem exec_scf {i : Instr} {x : BitVec 6} (h : i.scfIndex = some x) (s : State) : exec i s = storeScf x s := by
  cases i <;> simp only [Instr.scfIndex, Option.some.injEq, reduceCtorEq] at h <;> subst h <;> rfl

/-- A sample code's meaning. -/
theorem exec_sample {i : Instr} {n : Nat} {r : BitVec 15} (h : i.sampleCode = some (n, r)) (s : State) :
    exec i s = storeSample r s := by
  cases i <;> simp only [Instr.sampleCode, Option.some.injEq, Prod.mk.injEq, reduceCtorEq] at h <;>
    obtain ⟨rfl, rfl⟩ := h <;> rfl

/-! ### The decoder by format -/

/-- Every 4-bit word is an allocation code. -/
theorem decodeAlloc_code (a : BitVec 4) : (decodeAlloc a).allocCode = some a := by
  revert a
  decide

/-- Every 6-bit word is a scale-factor index. -/
theorem decodeScf_index (i : BitVec 6) : (decodeScf i).scfIndex = some i := by
  unfold decodeScf
  split
  · rename_i h; subst h; rfl
  · rfl

/-- A length from 2 to 15 is a sample code's. -/
theorem decodeSample_code {n : Nat} (h2 : 2 ≤ n) (h15 : n ≤ 15) (w : Word) :
    ∃ i, decodeSample n w = .ok i ∧ i.sampleCode = some (n, (w.extractLsb' 0 n).zeroExtend 15) := by
  have : n = 2 ∨ n = 3 ∨ n = 4 ∨ n = 5 ∨ n = 6 ∨ n = 7 ∨ n = 8 ∨ n = 9 ∨ n = 10 ∨ n = 11 ∨ n = 12 ∨ n = 13 ∨
      n = 14 ∨ n = 15 := by omega
  rcases this with rfl | rfl | rfl | rfl | rfl | rfl | rfl | rfl | rfl | rfl | rfl | rfl | rfl | rfl <;>
    exact ⟨_, rfl, rfl⟩

/-- The element of a header's fields carries those fields. -/
theorem headerInstr_fields (f : HdrFields) : (headerInstr f).headerFields = some f := by
  obtain ⟨v, l, t⟩ := f
  unfold headerInstr
  dsimp only
  split
  · rename_i h; subst h; rfl
  · split
    · rename_i h; subst h; rfl
    · split
      · rfl
      · split
        · rfl
        · split
          · rfl
          · have all : ∀ x : BitVec 2, x = 0#2 ∨ x = 1#2 ∨ x = 2#2 ∨ x = 3#2 := by decide
            rcases all v with rfl | rfl | rfl | rfl <;> rcases all l with rfl | rfl | rfl | rfl <;> trivial

/-- A header word that decodes: its fields, and the sync bits (spec/30_encoding.md R112). -/
theorem decodeHeader_ok {w : Word} {i : Instr} (h : decodeHeader w = .ok i) :
    i.headerFields = some (headerFieldsOf w) ∧ w.extractLsb' 21 11 = 0x7FF#11 := by
  unfold decodeHeader at h
  split at h
  · cases h
    exact ⟨headerInstr_fields _, ‹_›⟩
  · cases h

/-- Which bits the sync mask has. -/
theorem syncMask_bit : ∀ k < 32, syncMask.getLsbD k = decide (21 ≤ k) := by decide

/-- The sync test of the decoder is that of the search (spec/30_encoding.md R112, spec/40_sync.md R161). -/
theorem syncBits_iff (w : Word) : w.extractLsb' 21 11 = 0x7FF#11 ↔ w &&& syncMask = syncMask := by
  have ones : ∀ k < 11, (0x7FF#11).getLsbD k = true := by decide
  constructor
  · intro h
    apply BitVec.eq_of_getLsbD_eq
    intro k hk
    rw [BitVec.getLsbD_and, syncMask_bit k hk]
    by_cases hk2 : 21 ≤ k
    · have hb : (w.extractLsb' 21 11).getLsbD (k - 21) = true := by rw [h]; exact ones _ (by omega)
      rw [BitVec.getLsbD_extractLsb', Bool.and_eq_true] at hb
      rw [← show 21 + (k - 21) = k by omega, hb.2]
      rfl
    · simp [hk2]
  · intro h
    apply BitVec.eq_of_getLsbD_eq
    intro k hk
    have h2 : (w &&& syncMask).getLsbD (21 + k) = syncMask.getLsbD (21 + k) := by rw [h]
    rw [BitVec.getLsbD_and, syncMask_bit _ (by omega)] at h2
    rw [ones k hk, BitVec.getLsbD_extractLsb']
    simpa [hk] using h2

end Sys2Proof.Machine
end

