-- ==== Sys2Proof/Laws/Fetch.lean ====
section
/-! SUPPORT. What the fetch finds at each phase, and the byte and bit readings it rests on. -/

namespace Sys2Proof.Machine

open Sys2Proof

/-! ### Bytes and bits -/

/-- The value of two bit vectors side by side. -/
theorem append_toNat {m n : Nat} (x : BitVec m) (y : BitVec n) : (x ++ y).toNat = x.toNat * 2 ^ n + y.toNat := by
  rw [BitVec.toNat_append, ← Nat.shiftLeft_add_eq_or_of_lt y.isLt, Nat.shiftLeft_eq]

/-- `BE32(x)` as a number (spec/42_vbr.md R247). -/
theorem be32_toNat (s : State) (x : Nat) : (be32 s x).toNat = bytesAt s x := by
  simp only [be32, wordOfBytes, append_toNat, fbByte, bytesAt]
  omega

/-- `BE32(x)` from its number (spec/42_vbr.md R247). -/
theorem be32_eq (s : State) (x : Nat) : be32 s x = BitVec.ofNat 32 (bytesAt s x) := by
  apply BitVec.eq_of_toNat_eq
  rw [be32_toNat, BitVec.toNat_ofNat, Nat.mod_eq_of_lt]
  rw [← be32_toNat]
  exact BitVec.isLt _

/-- Bits read most significant first make the number whose bits they are (spec/20_memory.md R77). -/
theorem bitsAt_toNat (bytes : List Byte) (pos n w : Nat) (hw : w < 2 ^ n)
    (h : ∀ j, j < n → bitAt bytes (pos + j) = w.testBit (n - 1 - j)) : (bitsAt bytes pos n).toNat = w := by
  induction n generalizing w with
  | zero =>
    simp at hw
    subst hw
    rfl
  | succ n ih =>
    have h1 := ih (w / 2) (by omega) fun j hj => by
      rw [h j (by omega), show n + 1 - 1 - j = (n - 1 - j) + 1 by omega, Nat.testBit_succ]
    have h2 := h n (by omega)
    simp only [bitsAt, BitVec.toNat_concat, h1, h2]
    simp only [Nat.add_sub_cancel, Nat.sub_self, Nat.testBit_zero]
    rcases Nat.mod_two_eq_zero_or_one w with h | h <;> simp [h] <;> omega

/-- Packed bits are read back, whatever stands before and after them (spec/30_encoding.md R127). -/
theorem bitAt_packBits (before after : List Byte) (n w j : Nat) (hj : j < n) :
    bitAt (before ++ packBits n w ++ after) (8 * before.length + j) = w.testBit (n - 1 - j) := by
  have hlen : (packBits n w).length = (n + 7) / 8 := by simp [packBits]
  have hget : (packBits n w).getD (j / 8) 0#8 =
      BitVec.ofNat 8 (w * 2 ^ (8 * ((n + 7) / 8) - n) / 2 ^ (8 * ((n + 7) / 8 - 1 - j / 8))) := by
    simp [packBits, List.getD_eq_getElem?_getD, show j / 8 < (n + 7) / 8 by omega]
  unfold bitAt
  rw [show (8 * before.length + j) / 8 = before.length + j / 8 by omega,
    show (8 * before.length + j) % 8 = j % 8 by omega, List.append_assoc,
    List.getD_append_right _ _ _ _ (by omega), List.getD_append _ _ _ _ (by rw [hlen]; omega),
    show before.length + j / 8 - before.length = j / 8 by omega, hget, BitVec.getLsbD_ofNat]
  simp only [show 7 - j % 8 < 8 by omega, decide_true, Bool.true_and]
  rw [Nat.testBit_div_two_pow, Nat.testBit_mul_two_pow,
    show 7 - j % 8 + 8 * ((n + 7) / 8 - 1 - j / 8) = (n - 1 - j) + (8 * ((n + 7) / 8) - n) by omega]
  simp

/-! ### Steps -/

/-- A step while no command runs is the host's. -/
theorem step_idle {s : State} (h : s.top ≠ .busy) : step s = .next (hostStep s) := by
  unfold step
  split <;> simp_all

/-- A step of a running command. -/
theorem step_busy {s : State} (h : s.top = .busy) : step s = busyStep s := by simp [step, h]

/-- A step where the fetch finds no element is the sequencer's. -/
theorem step_sequencer {s : State} (h : s.top = .busy) (hf : fetch s = .noElement) : step s = sequencer s := by
  simp [step, h, busyStep, hf]

/-- Where a body element stands, the fetch takes its bits. -/
theorem fetch_elementAt {s : State} {k : Kind} (h : ElementAt s k) : fetch s = fetchBits k s := by
  rcases h with ⟨h1, h2, rfl⟩ | ⟨h1, rfl, n, h2, h3⟩ | ⟨h1, rfl, n, e, v, a, h2, h3, h4, h5, h6, h7⟩ |
    ⟨h1, h2, n, e, v, a, h3, h4, h5, h6, h7, h8, rfl⟩
  · simp [fetch, h1, h2]
  · simp [fetch, h1, fetchAlloc, h2, h3]
  · simp [fetch, h1, fetchScf, fetchSubband, h2, h3, h4, h5, h6, signalled, h7]
  · simp [fetch, h1, fetchSample, fetchSubband, h2, h3, h4, h5, h6, h7, signalled, h8, sampleLength]

end Sys2Proof.Machine
end

