-- ==== Sys2Proof/Laws/Memory.lean ====
section
/-! SUPPORT. The laws of stream memory: every operation keeps the canonical form, a read after a write, and what the
cells of a byte string read as. -/

namespace Sys2Proof.Machine

open Sys2Proof

theorem memWf_cons {a : Nat} {v : Byte} {rest : List Host.Cell} :
    memWf ((a, v) :: rest) = true ↔ v ≠ unlistedByte ∧ (∀ c ∈ rest, a < c.1) ∧ memWf rest = true := by
  simp [memWf, and_assoc]

/-- A write adds no offset but its own. -/
theorem memWrite_offsets {cells : List Host.Cell} {a : Nat} {v : Byte} {c : Host.Cell} (h : c ∈ memWrite cells a v) :
    c.1 = a ∨ c ∈ cells := by
  induction cells with
  | nil =>
    simp only [memWrite] at h
    split at h <;> simp_all
  | cons d rest ih =>
    obtain ⟨b, w⟩ := d
    simp only [memWrite] at h
    split at h
    · split at h
      · exact .inr h
      · rcases List.mem_cons.1 h with rfl | h
        · exact .inl rfl
        · exact .inr h
    · split at h
      · split at h
        · exact .inr (List.mem_cons_of_mem _ h)
        · rcases List.mem_cons.1 h with rfl | h
          · exact .inl rfl
          · exact .inr (List.mem_cons_of_mem _ h)
      · rcases List.mem_cons.1 h with rfl | h
        · exact .inr List.mem_cons_self
        · exact (ih h).imp_right (List.mem_cons_of_mem _)

/-- A write keeps the canonical form. -/
theorem memWrite_wf {cells : List Host.Cell} (h : memWf cells = true) (a : Nat) (v : Byte) :
    memWf (memWrite cells a v) = true := by
  induction cells with
  | nil =>
    simp only [memWrite]
    split
    · rfl
    · rw [memWf_cons]; simp_all [memWf]
  | cons d rest ih =>
    obtain ⟨b, w⟩ := d
    obtain ⟨hw, hb, hr⟩ := memWf_cons.1 h
    simp only [memWrite]
    split
    · rename_i hab
      split
      · exact h
      · refine memWf_cons.2 ⟨‹_›, fun c hc => ?_, h⟩
        rcases List.mem_cons.1 hc with rfl | hc
        · exact hab
        · exact Nat.lt_trans hab (hb c hc)
    · split
      · rename_i hab
        split
        · exact hr
        · exact memWf_cons.2 ⟨‹_›, hab ▸ hb, hr⟩
      · rename_i hab hne
        refine memWf_cons.2 ⟨hw, fun c hc => ?_, ih hr⟩
        rcases memWrite_offsets hc with hc | hc
        · omega
        · exact hb c hc

/-- An offset no cell lists reads as the unlisted byte. -/
theorem memRead_unlisted {cells : List Host.Cell} {a : Nat} (h : ∀ c ∈ cells, c.1 ≠ a) :
    memRead cells a = unlistedByte := by
  induction cells with
  | nil => rfl
  | cons d rest ih =>
    rw [memRead, if_neg fun e => h d List.mem_cons_self e.symm]
    exact ih fun c hc => h c (List.mem_cons_of_mem _ hc)

/-- A read after a write: the byte written at its offset, the old byte at every other. -/
theorem memRead_memWrite {cells : List Host.Cell} (h : memWf cells = true) (a x : Nat) (v : Byte) :
    memRead (memWrite cells a v) x = if x = a then v else memRead cells x := by
  induction cells with
  | nil =>
    simp only [memWrite]
    split <;> simp_all [memRead]
  | cons d rest ih =>
    obtain ⟨b, w⟩ := d
    obtain ⟨-, hb, hr⟩ := memWf_cons.1 h
    have below : ∀ y, y ≤ b → memRead rest y = unlistedByte := fun y hy =>
      memRead_unlisted fun c hc => by have := hb c hc; omega
    simp only [memWrite]
    split
    · split
      · by_cases hx : x = a
        · have := below x (by omega)
          simp_all [memRead]; omega
        · simp [hx]
      · simp only [memRead]
    · split
      · rename_i hab
        split
        · by_cases hx : x = a
          · have := below x (by omega)
            simp_all
          · have hxb : x ≠ b := by omega
            simp [memRead, hx, hxb]
        · by_cases hx : x = a
          · simp [memRead, hx]
          · have hxb : x ≠ b := by omega
            simp [memRead, hx, hxb]
      · rename_i hne
        simp only [memRead, ih hr]
        by_cases hxb : x = b
        · have : x ≠ a := by omega
          simp_all
        · simp [hxb]

/-- The cells of a byte string have the canonical form. -/
theorem memOfBytes_wf (bytes : List Byte) (a : Nat) : memWf (memOfBytes bytes a) = true := by
  induction bytes generalizing a with
  | nil => rfl
  | cons v rest ih => exact memWrite_wf (ih (a + 1)) a v

/-- The cells of a byte string read as its bytes, and as the unlisted byte elsewhere. -/
theorem memRead_memOfBytes (bytes : List Byte) (a x : Nat) :
    memRead (memOfBytes bytes a) x = if a ≤ x then bytes.getD (x - a) unlistedByte else unlistedByte := by
  induction bytes generalizing a with
  | nil => simp [memOfBytes, memRead]
  | cons v rest ih =>
    rw [memOfBytes, memRead_memWrite (memOfBytes_wf _ _), ih]
    by_cases hx : x = a
    · simp [hx]
    · by_cases hle : a ≤ x
      · obtain ⟨d, rfl⟩ : ∃ d, x = a + 1 + d := ⟨x - (a + 1), by omega⟩
        have h1 : a + 1 + d - a = d + 1 := by omega
        simp [hx, hle, h1]
      · have : ¬ a + 1 ≤ x := by omega
        simp [hx, hle, this]

/-- An attached stream has the canonical form. -/
theorem streamOfBytes_wf (bytes : List Byte) (endless : Bool) : memWf (streamOfBytes bytes endless).cells = true :=
  memOfBytes_wf bytes 0

/-- Reset memory has the canonical form. -/
theorem reset_memWf : memWf State.reset.stream.cells = true := rfl

/-- The byte of an attached stream at an offset. -/
theorem memRead_streamOfBytes (bytes : List Byte) (endless : Bool) (x : Nat) :
    memRead (streamOfBytes bytes endless).cells x = bytes.getD x unlistedByte := by
  simp [streamOfBytes, memRead_memOfBytes]

/-- No listed offset is above the highest. -/
theorem le_memTop {cells : List Host.Cell} {c : Host.Cell} (h : c ∈ cells) : c.1 ≤ memTop cells := by
  have key : ∀ (cells : List Host.Cell) (m : Nat),
      m ≤ cells.foldl (fun m c => max m c.1) m ∧ ∀ c ∈ cells, c.1 ≤ cells.foldl (fun m c => max m c.1) m := by
    intro cells
    induction cells with
    | nil => simp
    | cons c rest ih =>
      intro m
      obtain ⟨h1, h2⟩ := ih (max m c.1)
      simp only [List.foldl_cons, List.mem_cons]
      refine ⟨by omega, ?_⟩
      rintro d (rfl | hd)
      · omega
      · exact h2 d hd
  exact (key cells 0).2 c h

/-- Beyond every listed offset a byte reads as unlisted. -/
theorem memRead_above {cells : List Host.Cell} {a : Nat} (h : memTop cells < a) : memRead cells a = unlistedByte :=
  memRead_unlisted fun c hc => by
    have := le_memTop hc
    omega

/-- Beyond every listed offset all words are the same: what makes `scanFuel` enough on an endless stream. -/
theorem streamWord_above {st : Stream} {a : Nat} (h : memTop st.cells < a) :
    streamWord st a = wordOfBytes unlistedByte unlistedByte unlistedByte unlistedByte := by
  unfold streamWord
  rw [memRead_above h, memRead_above (by omega : memTop st.cells < a + 1),
    memRead_above (by omega : memTop st.cells < a + 2), memRead_above (by omega : memTop st.cells < a + 3)]

end Sys2Proof.Machine
end

