-- ==== Sys2Proof/Laws/Numerics.lean ====
section
/-! SUPPORT. The arithmetic on samples as rational arithmetic: the exact operations, dyadic numbers, and the place of
the leading bit. -/

namespace Sys2Proof.Machine

open Sys2Proof

/-- The exact product is the product. -/
theorem exactProduct_eq (a b : Rat) : exactProduct a b = a * b := (Rat.mul_def' a b).symm

/-- The exact sum is the sum. -/
theorem exactSum_eq (a b : Rat) : exactSum a b = a + b := (Rat.add_def' a b).symm

/-- A power of two as a quotient of naturals. -/
theorem two_zpow_eq (e : Int) : (2 : Rat) ^ e = (2 ^ e.toNat : Nat) / (2 ^ (-e).toNat : Nat) := by
  rcases Int.le_total 0 e with h | h
  · rw [Int.toNat_of_nonpos (by omega : -e ≤ 0)]
    nth_rewrite 1 [← Int.toNat_of_nonneg h]
    rw [zpow_natCast]
    push_cast
    ring
  · rw [Int.toNat_of_nonpos h]
    have : e = -((-e).toNat : Int) := by omega
    nth_rewrite 1 [this]
    rw [zpow_neg, zpow_natCast]
    push_cast
    ring

/-- The number `dyadic` writes. -/
theorem dyadic_eq (negative : Bool) (m : Nat) (e : Int) :
    dyadic negative m e = (if negative then -1 else 1) * m * (2 : Rat) ^ e := by
  unfold dyadic
  rw [Rat.mkRat_eq_div, two_zpow_eq]
  cases negative <;> push_cast <;> simp <;> ring

/-- Two powers of two and their quotient: what `leadingExp` compares. -/
theorem le_quotient_iff {n d : Nat} (hd : 0 < d) (k : Int) :
    d * 2 ^ k.toNat ≤ n * 2 ^ (-k).toNat ↔ (2 : Rat) ^ k ≤ (n : Rat) / d := by
  rw [two_zpow_eq, div_le_div_iff₀ (by positivity) (by positivity)]
  constructor
  · intro h
    exact_mod_cast (by linarith [Nat.mul_comm d (2 ^ k.toNat)] : 2 ^ k.toNat * d ≤ n * 2 ^ (-k).toNat)
  · intro h
    have : 2 ^ k.toNat * d ≤ n * 2 ^ (-k).toNat := by exact_mod_cast h
    linarith [Nat.mul_comm d (2 ^ k.toNat)]

/-- `leadingExp` is the exponent of the leading bit. -/
theorem leadingExp_spec {n d : Nat} (hn : 0 < n) (hd : 0 < d) :
    (2 : Rat) ^ leadingExp n d ≤ (n : Rat) / d ∧ (n : Rat) / d < (2 : Rat) ^ (leadingExp n d + 1) := by
  have hn1 : ((2 : Rat) ^ n.log2) ≤ n := by exact_mod_cast Nat.log2_self_le hn.ne'
  have hn2 : (n : Rat) < 2 ^ (n.log2 + 1) := by exact_mod_cast Nat.lt_log2_self
  have hd1 : ((2 : Rat) ^ d.log2) ≤ d := by exact_mod_cast Nat.log2_self_le hd.ne'
  have hd2 : (d : Rat) < 2 ^ (d.log2 + 1) := by exact_mod_cast Nat.lt_log2_self
  have hdq : (0 : Rat) < d := by exact_mod_cast hd
  have lower : (2 : Rat) ^ ((n.log2 : Int) - d.log2 - 1) ≤ n / d := by
    rw [le_div_iff₀ hdq]
    have : (2 : Rat) ^ ((n.log2 : Int) - d.log2 - 1) * 2 ^ (d.log2 + 1) = 2 ^ n.log2 := by
      rw [← zpow_natCast, ← zpow_natCast, ← zpow_add₀ (by norm_num)]
      congr 1
      push_cast
      ring
    nlinarith [zpow_pos (by norm_num : (0 : Rat) < 2) ((n.log2 : Int) - d.log2 - 1)]
  have upper : (n : Rat) / d < (2 : Rat) ^ ((n.log2 : Int) - d.log2 + 1) := by
    rw [div_lt_iff₀ hdq]
    have : (2 : Rat) ^ ((n.log2 : Int) - d.log2 + 1) * 2 ^ d.log2 = 2 ^ (n.log2 + 1) := by
      rw [← zpow_natCast, ← zpow_natCast, ← zpow_add₀ (by norm_num)]
      congr 1
      push_cast
      ring
    nlinarith [zpow_pos (by norm_num : (0 : Rat) < 2) ((n.log2 : Int) - d.log2 + 1)]
  unfold leadingExp
  dsimp only
  split
  · rename_i h
    exact ⟨(le_quotient_iff hd _).1 h, upper⟩
  · rename_i h
    rw [le_quotient_iff hd, not_le] at h
    exact ⟨lower, by rwa [sub_add_cancel]⟩

end Sys2Proof.Machine
end

