-- ==== Sys2Proof/Laws/Params.lean ====
section
/-! SUPPORT. The parameters: R6's values are what the rules ask of parameters, and what a lock mask
with the sync bits does. -/

namespace Sys2Proof.Machine

open Sys2Proof

/-- The function of R203 gives no more than 32, whatever the header (spec/41_header.md R203). -/
theorem subbandsRule_le (m : Mode) (br sr : Nat) : subbandsRule m br sr ≤ 32 := by
  simp only [subbandsRule]
  split_ifs <;> decide

/-- The subbands of a layer 2 or 3 header under R6's parameters (spec/41_header.md R203). -/
theorem subbandsL23_default_le (v : Version) (l : Layer) (t : HdrTail) : subbandsL23 Config.defaultParams v l t ≤ 32 :=
  subbandsRule_le _ _ _

/-- The body of a header without a fault under R6's parameters (spec/41_header.md R205, R206). -/
theorem frameSizeOf_default_le (v : Version) (l : Layer) (br : BitVec 4) (sr : BitVec 2) (pad : Bool) :
    br ≠ 0#4 → br ≠ 15#4 → sr ≠ 3#2 →
      frameSizeOf Config.defaultParams v l br sr pad ≤ Config.defaultParams.frameBufCap := by
  cases v <;> cases l <;> cases pad <;> revert br sr <;> decide

/-- R6's values are what the rules ask of the parameters. -/
theorem defaultParams_ok : ParamsOk Config.defaultParams :=
  ⟨by decide, subbandsL23_default_le, frameSizeOf_default_le⟩

/-- A word masked twice is masked once. -/
theorem lockMask_idem (mask w : Word) : (w &&& mask) &&& mask = w &&& mask := by
  rw [BitVec.and_assoc, BitVec.and_self]

/-- Masking keeps the sync bits, where they are locked (spec/40_sync.md R164). -/
theorem lockMask_sync {p : Params} (hp : ParamsOk p) {w : Word} (h : w &&& syncMask = syncMask) :
    (w &&& p.lockMask) &&& syncMask = syncMask := by
  rw [BitVec.and_assoc, hp.syncLocked, h]

end Sys2Proof.Machine
end

