-- ==== Sys2Proof/Laws/PerInstr.lean ====
section
/-! SUPPORT. Per-instruction laws, one lemma a constructor: the encoder stays inside the format's width. -/

namespace Sys2Proof.Laws.EncodeFits

open Sys2Proof

/-- An element's bits fit its format (spec/30_encoding.md R110). -/
def Statement (i : Instr) : Prop := (encode i).toNat < 2 ^ i.kind.width

/-- A narrower value, widened, keeps its bound. -/
theorem widened {n : Nat} (x : BitVec n) (h : n ≤ 32) : (x.zeroExtend 32).toNat < 2 ^ n := by
  rw [BitVec.toNat_setWidth, Nat.mod_eq_of_lt (lt_of_lt_of_le x.isLt (Nat.pow_le_pow_right (by omega) h))]
  exact x.isLt

theorem hdrBadVer (layerBits : BitVec 2) (t : HdrTail) : Statement (.hdrBadVer layerBits t) := BitVec.isLt _
theorem hdrL0 (versionBits : BitVec 2) (t : HdrTail) : Statement (.hdrL0 versionBits t) := BitVec.isLt _
theorem hdrBadRate (versionBits layerBits : BitVec 2) (t : HdrTail) : Statement (.hdrBadRate versionBits layerBits t) := BitVec.isLt _
theorem hdrFreeFmt (versionBits layerBits : BitVec 2) (t : HdrTail) : Statement (.hdrFreeFmt versionBits layerBits t) := BitVec.isLt _
theorem hdrBadBr (versionBits layerBits : BitVec 2) (t : HdrTail) : Statement (.hdrBadBr versionBits layerBits t) := BitVec.isLt _
theorem hdrM1L1 (t : HdrTail) : Statement (.hdrM1L1 t) := BitVec.isLt _
theorem hdrM1L2 (t : HdrTail) : Statement (.hdrM1L2 t) := BitVec.isLt _
theorem hdrM1L3 (t : HdrTail) : Statement (.hdrM1L3 t) := BitVec.isLt _
theorem hdrM2L1 (t : HdrTail) : Statement (.hdrM2L1 t) := BitVec.isLt _
theorem hdrM2L2 (t : HdrTail) : Statement (.hdrM2L2 t) := BitVec.isLt _
theorem hdrM2L3 (t : HdrTail) : Statement (.hdrM2L3 t) := BitVec.isLt _
theorem hdrM25L1 (t : HdrTail) : Statement (.hdrM25L1 t) := BitVec.isLt _
theorem hdrM25L2 (t : HdrTail) : Statement (.hdrM25L2 t) := BitVec.isLt _
theorem hdrM25L3 (t : HdrTail) : Statement (.hdrM25L3 t) := BitVec.isLt _
theorem crcw (field : BitVec 16) : Statement (.crcw field) := widened _ (by decide)
theorem alloc0 : Statement .alloc0 := by unfold Statement; decide
theorem alloc1 : Statement .alloc1 := by unfold Statement; decide
theorem alloc2 : Statement .alloc2 := by unfold Statement; decide
theorem alloc3 : Statement .alloc3 := by unfold Statement; decide
theorem alloc4 : Statement .alloc4 := by unfold Statement; decide
theorem alloc5 : Statement .alloc5 := by unfold Statement; decide
theorem alloc6 : Statement .alloc6 := by unfold Statement; decide
theorem alloc7 : Statement .alloc7 := by unfold Statement; decide
theorem alloc8 : Statement .alloc8 := by unfold Statement; decide
theorem alloc9 : Statement .alloc9 := by unfold Statement; decide
theorem alloc10 : Statement .alloc10 := by unfold Statement; decide
theorem alloc11 : Statement .alloc11 := by unfold Statement; decide
theorem alloc12 : Statement .alloc12 := by unfold Statement; decide
theorem alloc13 : Statement .alloc13 := by unfold Statement; decide
theorem alloc14 : Statement .alloc14 := by unfold Statement; decide
theorem alloc15 : Statement .alloc15 := by unfold Statement; decide
theorem scf63 : Statement .scf63 := by unfold Statement; decide
theorem scf (index : BitVec 6) : Statement (.scf index) := widened _ (by decide)
theorem samp2 (raw : BitVec 2) : Statement (.samp2 raw) := widened _ (by decide)
theorem samp3 (raw : BitVec 3) : Statement (.samp3 raw) := widened _ (by decide)
theorem samp4 (raw : BitVec 4) : Statement (.samp4 raw) := widened _ (by decide)
theorem samp5 (raw : BitVec 5) : Statement (.samp5 raw) := widened _ (by decide)
theorem samp6 (raw : BitVec 6) : Statement (.samp6 raw) := widened _ (by decide)
theorem samp7 (raw : BitVec 7) : Statement (.samp7 raw) := widened _ (by decide)
theorem samp8 (raw : BitVec 8) : Statement (.samp8 raw) := widened _ (by decide)
theorem samp9 (raw : BitVec 9) : Statement (.samp9 raw) := widened _ (by decide)
theorem samp10 (raw : BitVec 10) : Statement (.samp10 raw) := widened _ (by decide)
theorem samp11 (raw : BitVec 11) : Statement (.samp11 raw) := widened _ (by decide)
theorem samp12 (raw : BitVec 12) : Statement (.samp12 raw) := widened _ (by decide)
theorem samp13 (raw : BitVec 13) : Statement (.samp13 raw) := widened _ (by decide)
theorem samp14 (raw : BitVec 14) : Statement (.samp14 raw) := widened _ (by decide)
theorem samp15 (raw : BitVec 15) : Statement (.samp15 raw) := widened _ (by decide)
theorem xing : Statement .xing := by unfold Statement; decide
theorem vbri : Statement .vbri := by unfold Statement; decide

end Sys2Proof.Laws.EncodeFits
end

