-- ==== Sys2Proof/Laws/Sinks.lean ====
section
/-! SUPPORT. What reaches the sinks, in the statements' terms: inputs and flushes one after another. -/

namespace Sys2Proof.Machine

open Sys2Proof

/-- `S1_EN` is the table's (spec/45_samples_sink.md R303). -/
theorem s1En_eq (c : ChSel) : s1En c = sink1On c := by cases c <;> rfl

/-- `S2_EN` is the table's (spec/45_samples_sink.md R303). -/
theorem s2En_eq (c : ChSel) (m : Mode) : s2En c m = sink2On c m := by cases c <;> cases m <;> rfl

/-- Everything `forward` does (spec/45_samples_sink.md R307 to R309). -/
theorem forward_eq (m : Mode) (i : Nat) (v1 : Sample) (v2 : Option Sample) (s : State) :
    forward m i v1 v2 s =
      match v2 with
      | none => input1 (sink1On s.chsel) i v1 s
      | some x => input2 (sink2On s.chsel m) i x (input1 (sink1On s.chsel) i v1 s) := by
  unfold forward
  rw [s1En_eq]
  cases v2 with
  | none => rfl
  | some x => rw [s2En_eq]; rfl

/-- Everything `flushSinks` does (spec/45_samples_sink.md R311). -/
theorem flushSinks_eq (m : Mode) (s : State) :
    flushSinks m s = flush2 (sink2On s.chsel m) (flush1 (sink1On s.chsel) s) := by
  unfold flushSinks
  rw [s1En_eq, s2En_eq]
  rfl

/-- An input leaves the loop counter to its later write. -/
theorem input1_slot (on : Bool) (i : Nat) (v : Sample) (s : State) (c : Chan) (j : Nat) :
    ({ input1 on i v s with chan := c, sbi := j } : State) = input1 on i v { s with chan := c, sbi := j } := by
  cases on <;> rfl

/-- Two inputs leave the loop counter to its later write. -/
theorem input2_slot (on1 on2 : Bool) (i : Nat) (v1 v2 : Sample) (s : State) (c : Chan) (j : Nat) :
    ({ input2 on2 i v2 (input1 on1 i v1 s) with chan := c, sbi := j } : State) =
      input2 on2 i v2 (input1 on1 i v1 { s with chan := c, sbi := j }) := by
  cases on1 <;> cases on2 <;> rfl

/-- What an input can change. -/
theorem forward_shape (m : Mode) (i : Nat) (v1 : Sample) (v2 : Option Sample) (s : State) :
    ∃ b1 b2 l, forward m i v1 v2 s = { s with bank1 := b1, bank2 := b2, hist := s.hist ++ l } ∧
      ∀ x ∈ l, ∃ k v, x = .skInput k i v := by
  rw [forward_eq]
  cases v2 with
  | none =>
    cases h : sink1On s.chsel
    · exact ⟨s.bank1, s.bank2, [], by simp [input1], by simp⟩
    · exact ⟨s.bank1.setIfInBounds i (some v1), s.bank2, [.skInput .sk1 i v1], by simp [input1], by simp⟩
  | some x =>
    cases h : sink1On s.chsel <;> cases h2 : sink2On s.chsel m
    · exact ⟨s.bank1, s.bank2, [], by simp [input1, input2], by simp⟩
    · exact ⟨s.bank1, s.bank2.setIfInBounds i (some x), [.skInput .sk2 i x], by simp [input1, input2], by simp⟩
    · exact ⟨s.bank1.setIfInBounds i (some v1), s.bank2, [.skInput .sk1 i v1], by simp [input1, input2], by simp⟩
    · exact ⟨s.bank1.setIfInBounds i (some v1), s.bank2.setIfInBounds i (some x),
      [.skInput .sk1 i v1, .skInput .sk2 i x], by simp [input1, input2], by simp⟩

/-- What the flushes can change. -/
theorem flushSinks_shape (m : Mode) (s : State) :
    ∃ b1 b2 l, flushSinks m s = { s with bank1 := b1, bank2 := b2, hist := s.hist ++ l } ∧
      ∀ x ∈ l, ∃ k, x = .skFlush k := by
  rw [flushSinks_eq]
  cases h : sink1On s.chsel <;> cases h2 : sink2On s.chsel m
  · exact ⟨s.bank1, s.bank2, [], by simp [flush1, flush2], by simp⟩
  · exact ⟨s.bank1, emptyBank, [.skFlush .sk2], by simp [flush1, flush2, emptyBank], by simp⟩
  · exact ⟨emptyBank, s.bank2, [.skFlush .sk1], by simp [flush1, flush2, emptyBank], by simp⟩
  · exact ⟨emptyBank, emptyBank,
      [.skFlush .sk1, .skFlush .sk2], by simp [flush1, flush2, emptyBank], by simp⟩

/-- What the end of a repetition can do (spec/45_samples_sink.md R304, R311). -/
theorem endRepetition_next {s t : State} (h : endRepetition s = .next t) :
    ∃ m, s.hdr.mode = some m ∧
      ((s.rep + 1 < 12 ∧ t = { flushSinks m s with rep := s.rep + 1, sbi := 0, chan := .ch1 }) ∨
        (12 ≤ s.rep + 1 ∧ t = { flushSinks m s with rep := s.rep + 1, phase := .done })) := by
  obtain ⟨m, hm, h⟩ := require_next.1 h
  dsimp only at h
  split at h <;> cases h
  · exact ⟨m, hm, .inl ⟨‹_›, rfl⟩⟩
  · exact ⟨m, hm, .inr ⟨by omega, rfl⟩⟩

/-- A written entry of the register file reads back. -/
theorem sb_set_get {sb : Vector SubbandRegs 32} {i : Nat} {e : SubbandRegs} (e' : SubbandRegs) (h : sb[i]? = some e) :
    (sb.setIfInBounds i e')[i]? = some e' := by
  have : i < 32 := (Vector.getElem?_eq_some_iff.1 h).1
  simp [this]

end Sys2Proof.Machine
end

