-- ==== Sys2Proof/Laws/Step.lean ====
section
/-! SUPPORT. What one step of a running command can do, said once for each phase (spec/46_frame_loop_host.md R344):
whole-machine claims follow by cases on the phase. -/

namespace Sys2Proof.Machine

open Sys2Proof

/-- A body element that was fetched: its bits were taken, and the decoder read it. -/
theorem fetchBits_element {k : Kind} {s u : State} {i : Instr} (h : fetchBits k s = .element i u) :
    u = { s with bitpos := s.bitpos + k.width, hist := s.hist ++ [.getBits k.width] } ∧
      s.bitpos + k.width ≤ 8 * s.fb.length ∧
      decodeWord k ((bitsAt s.fb s.bitpos k.width).zeroExtend 32) = .ok i := by
  rcases fetchBits_cases k s with ⟨-, h1⟩ | ⟨hle, h1⟩
  · rw [h1] at h
    cases h
  · rw [h1] at h
    unfold decoded at h
    split at h
    · cases h
      exact ⟨rfl, hle, ‹_›⟩
    · cases h

/-- A step at a place where a body element stands: it is executed after its bits were taken, or the read raises. -/
theorem step_element_next {k : Kind} {s t : State} (ht : s.top = .busy) (hf : fetch s = fetchBits k s)
    (h : step s = .next t) :
    (8 * s.fb.length < s.bitpos + k.width ∧ t = raise .frameOverrun s) ∨
      ∃ i, decodeWord k ((bitsAt s.fb s.bitpos k.width).zeroExtend 32) = .ok i ∧
        s.bitpos + k.width ≤ 8 * s.fb.length ∧
        exec i { s with bitpos := s.bitpos + k.width, hist := s.hist ++ [.getBits k.width] } = .next t := by
  rw [step_busy ht, busyStep, hf] at h
  rcases fetchBits_cases k s with ⟨hlt, h1⟩ | ⟨hle, h1⟩
  · rw [h1] at h
    cases h
    exact .inl ⟨hlt, rfl⟩
  · rw [h1] at h
    unfold decoded at h
    cases hd : decodeWord k ((bitsAt s.fb s.bitpos k.width).zeroExtend 32) with
    | ok i =>
      rw [hd] at h
      exact .inr ⟨i, rfl, hle, h⟩
    | error why =>
      rw [hd] at h
      cases h

/-- `P_SYNC` (spec/40_sync.md R160, R163). -/
theorem step_sync_next {s t : State} (ht : s.top = .busy) (hp : s.phase = .sync) (h : step s = .next t) :
    (∃ w p, t =
      { s with
        h := some w, phase := .header, pos := p, io := s.io.tail, hist := s.hist ++ [.rdSync (.word w)] }) ∨
    ∃ p f a, t = raise (if a = SyncAnswer.ioError then .ioFailure else .lostSync)
      { s with pos := p, fresh := f, io := s.io.tail, hist := s.hist ++ [.rdSync a] } := by
  rw [step_sequencer ht (by simp [fetch, hp])] at h
  simp only [sequencer, hp, stepSync, withLock] at h
  have key : ∀ lock, (match rdSync s.syncMode lock s with
      | none => (Host.Outcome.fault .syncNeverAnswers : Result)
      | some (.endOfStream, s1) => .next (raise .lostSync s1)
      | some (.ioError, s1) => .next (raise .ioFailure s1)
      | some (.word w, s1) => .next { s1 with h := some w, phase := .header }) = .next t →
      (∃ w p, t =
        { s with
          h := some w, phase := .header, pos := p, io := s.io.tail, hist := s.hist ++ [.rdSync (.word w)] }) ∨
      ∃ p f a, t = raise (if a = SyncAnswer.ioError then .ioFailure else .lostSync)
        { s with pos := p, fresh := f, io := s.io.tail, hist := s.hist ++ [.rdSync a] } := by
    intro lock h
    rcases rdSync_cases s.syncMode lock s with ⟨-, h1⟩ | ⟨-, p, w, -, h1⟩ | ⟨-, -, h1⟩ | ⟨-, -, h1⟩ <;>
      rw [h1] at h <;> cases h
    · exact .inr ⟨_, _, .ioError, rfl⟩
    · exact .inl ⟨w, _, rfl⟩
    · exact .inr ⟨_, s.fresh, .endOfStream, rfl⟩
  split at h
  · exact key _ h
  · obtain ⟨l, -, h⟩ := require_next.1 h
    exact key _ h

/-- `P_HEADER` (spec/41_header.md R190). -/
theorem step_header_next {s t : State} (ht : s.top = .busy) (hp : s.phase = .header) (h : step s = .next t) :
    ∃ w, s.h = some w ∧ w &&& syncMask = syncMask ∧ t = headerWord (headerFieldsOf w) s := by
  rw [step_busy ht] at h
  cases hh : s.h with
  | none => simp [busyStep, fetch, hp, hh] at h
  | some w =>
    cases hd : decodeHeader w with
    | error why => simp [busyStep, fetch, hp, hh, decoded, decodeWord, hd] at h
    | ok i =>
      obtain ⟨hf, hs⟩ := decodeHeader_ok hd
      simp only [busyStep, fetch, hp, hh, fetchReg_some, decoded, decodeWord, hd, exec_header hf] at h
      cases h
      exact ⟨w, rfl, (syncBits_iff w).1 hs, rfl⟩

/-- What a header word can do, as a change of fields. -/
theorem headerWord_shape (f : HdrFields) (s : State) :
    (∃ r g, headerWord f s = { s with hdr := r, geo := g, phase := .body }) ∨
      ∃ e r, headerWord f s = raise e { s with hdr := r } := by
  rcases headerWord_cases f s with ⟨v, l, hv, hl, hr, hb⟩ | ⟨e, r, he, -⟩
  · exact .inl ⟨_, _, headerWord_good s hv hl hr hb⟩
  · exact .inr ⟨e, r, he⟩

/-- `P_BODY` (spec/40_sync.md R160, R167, spec/41_header.md R208). -/
theorem step_body_next {s t : State} (ht : s.top = .busy) (hp : s.phase = .body) (h : step s = .next t) :
    ∃ n, s.geo.frameSize = some n ∧
      ((ioFails s = true ∧
          t = raise .ioFailure
            { s with
              pos := Config.posAfterIoFailure s.fresh, fresh := s.fresh + 1, io := s.io.tail
              hist := s.hist ++ [.rdReadFrame n .ioError] }) ∨
        (ioFails s = false ∧ frameCount s.stream s.pos n = n ∧
          t = { s with
            fb := streamBytes s.stream s.pos n, bitpos := 0, pos := s.pos + n, phase := .validate, io := s.io.tail
            hist := s.hist ++ [.rdReadFrame n (.count n)] }) ∨
        (ioFails s = false ∧ frameCount s.stream s.pos n ≠ n ∧
          t = { s with
            fb := [], bitpos := 0, pos := s.pos + frameCount s.stream s.pos n, phase := .sync, io := s.io.tail
            hist := s.hist ++
              [.rdReadFrame n (.count (frameCount s.stream s.pos n)), .frameSizeMismatch, .rdClose] })) := by
  rw [step_sequencer ht (by simp [fetch, hp])] at h
  simp only [sequencer, hp, stepBody] at h
  obtain ⟨n, hn, h⟩ := require_next.1 h
  refine ⟨n, hn, ?_⟩
  split at h
  · cases h
  · rcases rdReadFrame_cases n s with ⟨hio, h1⟩ | ⟨hio, h1⟩
    · rw [h1] at h
      cases h
      exact .inl ⟨hio, rfl⟩
    · rw [h1] at h
      cases h
      by_cases hk : frameCount s.stream s.pos n = n
      · exact .inr (.inl ⟨hio, hk, by rw [if_pos hk, hk]⟩)
      · refine .inr (.inr ⟨hio, hk, ?_⟩)
        rw [if_neg hk]
        simp [rejectShort, rdClose, logEvent]

/-- `P_VALIDATE` (spec/40_sync.md R168 to R170). -/
theorem step_validate_next {s t : State} (ht : s.top = .busy) (hp : s.phase = .validate) (h : step s = .next t) :
    (s.syncMode = .initialSync ∧ ∃ w, s.h = some w ∧
      t = { s with lock := some (w &&& s.par.lockMask), syncMode := .strictSync, phase := .crcw }) ∨
    (s.syncMode = .strictSync ∧ ∃ l, t = { s with phase := .crcw, hist := s.hist ++ l } ∧
      ∀ x ∈ l, ∃ a, x = .rdPeekSync a) ∨
    (s.syncMode = .strictSync ∧ ∃ a,
      t = { s with
        fb := [], pos := s.pos + s.par.resyncAdvance - s.fb.length - 4, phase := .sync
        hist := s.hist ++ [.rdPeekSync a, .strictSyncMismatch, .rdUnread] }) := by
  rw [step_sequencer ht (by simp [fetch, hp])] at h
  simp only [sequencer, hp, stepValidate] at h
  have strict : ∀ {u : State}, u.syncMode = .strictSync → acceptFrame u = .next { u with phase := .crcw } := by
    intro u hu
    simp [acceptFrame, hu]
  cases hm : s.syncMode with
  | initialSync =>
    simp only [hm, acceptFrame] at h
    obtain ⟨w, hw, h⟩ := require_next.1 h
    cases h
    exact .inl ⟨rfl, w, hw, rfl⟩
  | strictSync =>
    cases hv : s.par.strictValidate with
    | trivial =>
      simp only [hm, hv, strict hm] at h
      cases h
      exact .inr (.inl ⟨rfl, [], by simp, by simp⟩)
    | lookahead =>
      simp only [hm, hv] at h
      obtain ⟨l, -, h⟩ := require_next.1 h
      split at h
      · rw [strict (by simpa [logEvent] using hm)] at h
        cases h
        exact .inr (.inl ⟨rfl, [.rdPeekSync (peekAnswer .strictSync l s)], by simp [logEvent, hm], by simp⟩)
      · cases h
        exact .inr (.inr ⟨rfl, peekAnswer .strictSync l s, by simp [rejectStrict, rdUnread, logEvent, hm]⟩)

/-- `P_CRCW` (spec/41_header.md R210). -/
theorem step_crcw_next {s t : State} (ht : s.top = .busy) (hp : s.phase = .crcw) (h : step s = .next t) :
    (s.hdr.prot = some false ∧ t = { s with crcAttached := false, phase := .vbr }) ∨
    (s.hdr.prot = some true ∧ (t = raise .frameOverrun s ∨
      ∃ w, s.h = some w ∧ s.bitpos + 16 ≤ 8 * s.fb.length ∧
        t = { s with
          bitpos := s.bitpos + 16, hist := s.hist ++ [.getBits 16], crcField := some (bitsAt s.fb s.bitpos 16)
          crcAcc := some (crcSeed s.par.crc w), crcAttached := true, phase := .vbr })) := by
  cases hpr : s.hdr.prot with
  | none => simp [step, ht, busyStep, fetch, hp, hpr] at h
  | some p =>
    cases p with
    | false =>
      rw [step_sequencer ht (by simp [fetch, hp, hpr])] at h
      simp only [sequencer, hp, stepUnprotected] at h
      cases h
      exact .inl ⟨rfl, rfl⟩
    | true =>
      rcases step_element_next ht (k := .c16) (by simp [fetch, hp, hpr]) h with ⟨-, h⟩ | ⟨i, hd, hle, h⟩
      · exact .inr ⟨rfl, .inl h⟩
      · refine .inr ⟨rfl, .inr ?_⟩
        simp only [decodeWord, Except.ok.injEq] at hd
        subst hd
        simp only [exec, execCrcw] at h
        obtain ⟨w, hw, h⟩ := require_next.1 h
        cases h
        have : BitVec.extractLsb' 0 16 ((bitsAt s.fb s.bitpos Kind.c16.width).zeroExtend 32) =
            bitsAt s.fb s.bitpos 16 := by
          apply BitVec.eq_of_toNat_eq
          simp [Kind.width]
          exact BitVec.isLt _
        exact ⟨w, hw, hle, by rw [this]; rfl⟩

/-- The state a block leaves, whichever way it ended. -/
def blockState : Block → State
  | .going _ s => s
  | .corrupt s => s

/-- A field of the "Xing" block leaves `IS_VBR` alone. -/
theorem xingField_isVbr {present : Bool} {width : Nat} {store : Nat → State → State} {b : Block}
    (hs : ∀ o u, (store o u).vbr.isVbr = u.vbr.isVbr) :
    (blockState (xingField present width store b)).vbr.isVbr = (blockState b).vbr.isVbr := by
  unfold xingField
  cases b with
  | corrupt u => rfl
  | going o u =>
    cases present with
    | false => rfl
    | true =>
      simp only [needBytes, if_true]
      split
      · simp [blockState, raise_eq]
      · exact hs o u

/-- The fields of the "Xing" block leave `IS_VBR` alone. -/
theorem xingFields_isVbr (x : Nat) (s : State) : (blockState (xingFields x s)).vbr.isVbr = s.vbr.isVbr := by
  unfold xingFields needBytes
  split
  · simp [blockState, raise_eq]
  · exact (xingField_isVbr (store := storeScale) fun _ _ => rfl).trans
      ((xingField_isVbr (store := storeToc) fun _ _ => rfl).trans
        ((xingField_isVbr (store := storeBytes) fun _ _ => rfl).trans
          (xingField_isVbr (store := storeFrames) fun _ _ => rfl)))

/-- A metadata tag: VBR registers and the probe's place, or `VbrHeaderCorrupt` (spec/42_vbr.md R243, R249, R251). -/
theorem exec_tag_next {i : Instr} {s t : State} (hi : i = .xing ∨ i = .vbri) (h : exec i s = .next t) :
    ∃ r : VbrRegs, r.isVbr = true ∧
      ((∃ p, t = { s with vbr := r, probe := p }) ∨ t = raise .vbrHeaderCorrupt { s with vbr := r }) := by
  rcases hi with rfl | rfl
  · simp only [exec, execXing] at h
    obtain ⟨v, -, h⟩ := require_next.1 h
    obtain ⟨m, -, h⟩ := require_next.1 h
    have hf := xingFields_frame (xingOffset v m) { s with vbr := { s.vbr with isVbr := true } }
    have hv := xingFields_isVbr (xingOffset v m) { s with vbr := { s.vbr with isVbr := true } }
    generalize xingFields (xingOffset v m) { s with vbr := { s.vbr with isVbr := true } } = b at *
    cases b with
    | going o u =>
      obtain ⟨r, rfl⟩ := hf
      cases h
      exact ⟨r, hv, .inl ⟨_, rfl⟩⟩
    | corrupt u =>
      obtain ⟨r, rfl⟩ := hf
      cases h
      simp only [blockState, raise_eq] at hv
      exact ⟨r, hv, .inr rfl⟩
  · simp only [exec, execVbri, vbriFields, needBytes] at h
    split at h
    · cases h
      exact ⟨_, rfl, .inr rfl⟩
    · split at h <;> cases h
      · exact ⟨_, rfl, .inr rfl⟩
      · exact ⟨_, rfl, .inl ⟨_, rfl⟩⟩

/-- `P_VBR` (spec/42_vbr.md R241, spec/46_frame_loop_host.md R343, R346). -/
theorem step_vbr_next {s t : State} (ht : s.top = .busy) (hp : s.phase = .vbr) (h : step s = .next t) :
    ((s.probe = .xing ∨ s.probe = .vbri) ∧ ∃ r : VbrRegs, r.isVbr = true ∧
      ((∃ p, t = { s with vbr := r, probe := p }) ∨ t = raise .vbrHeaderCorrupt { s with vbr := r })) ∨
    (s.probe = .start ∧ s.first = true ∧ t = { s with first := false, probe := .xing }) ∨
    (∃ p, t = { s with probe := p }) ∨
    (s.probe = .done ∧ s.hdr.layer = some .one ∧ t = { s with phase := .construct }) ∨
    (s.probe = .done ∧ t = raise (.refused .layerNotDecoded) s) := by
  have tag : ∀ {x : Nat} {i : Instr}, fetchTag x i s = .noElement ∨ fetchTag x i s = .element i s := by
    intro x i
    unfold fetchTag
    split
    · exact .inl rfl
    · split
      · exact .inr rfl
      · exact .inl rfl
  have own : fetch s = .noElement → stepProbe s = .next t := by
    intro hf
    rw [step_sequencer ht hf, sequencer, hp] at h
    exact h
  have read : ∀ {i}, fetch s = .element i s → exec i s = .next t := by
    intro i hf
    rwa [step_busy ht, busyStep, hf] at h
  cases hpr : s.probe with
  | start =>
    have h := own (by simp [fetch, hp, fetchProbe, hpr])
    simp only [stepProbe, hpr] at h
    cases h
    cases hf : s.first
    · exact .inr (.inr (.inl ⟨.done, by simp⟩))
    · exact .inr (.inl ⟨rfl, rfl, by simp⟩)
  | xing =>
    cases hv : s.hdr.version with
    | none => simp [step, ht, busyStep, fetch, hp, fetchProbe, hpr, hv] at h
    | some v =>
      cases hm : s.hdr.mode with
      | none => simp [step, ht, busyStep, fetch, hp, fetchProbe, hpr, hv, hm] at h
      | some m =>
        rcases tag (x := xingOffset v m) (i := .xing) with h1 | h1
        · have h := own (by simp [fetch, hp, fetchProbe, hpr, hv, hm, h1])
          simp only [stepProbe, hpr] at h
          cases h
          exact .inr (.inr (.inl ⟨_, rfl⟩))
        · have h := read (i := .xing) (by simp [fetch, hp, fetchProbe, hpr, hv, hm, h1])
          exact .inl ⟨.inl rfl, by simpa only [hpr] using exec_tag_next (.inl rfl) h⟩
  | vbri =>
    rcases tag (x := vbriOffset) (i := .vbri) with h1 | h1
    · have h := own (by simp [fetch, hp, fetchProbe, hpr, h1])
      simp only [stepProbe, hpr] at h
      cases h
      exact .inr (.inr (.inl ⟨_, rfl⟩))
    · have h := read (i := .vbri) (by simp [fetch, hp, fetchProbe, hpr, h1])
      exact .inl ⟨.inr rfl, by simpa only [hpr] using exec_tag_next (.inr rfl) h⟩
  | done =>
    have h := own (by simp [fetch, hp, fetchProbe, hpr])
    simp only [stepProbe, hpr] at h
    obtain ⟨l, hl, h⟩ := require_next.1 h
    cases h
    by_cases h1 : l = .one
    · exact .inr (.inr (.inr (.inl ⟨rfl, by rw [hl, h1], by simp [h1]⟩)))
    · exact .inr (.inr (.inr (.inr ⟨rfl, by simp [h1]⟩)))

/-- `P_CONSTRUCT` (spec/44_alloc_scf.md R270, R271). -/
theorem step_construct_next {s t : State} (ht : s.top = .busy) (hp : s.phase = .construct) (h : step s = .next t) :
    ∃ m b n, s.hdr.mode = some m ∧ s.geo.subbandCount = some n ∧ (m = .jointStereo → s.geo.bound = some b) ∧
      t = { s with sb := constructed m b n, phase := .alloc, sbi := 0, chan := .ch1 } := by
  rw [step_sequencer ht (by simp [fetch, hp])] at h
  simp only [sequencer, hp, stepConstruct] at h
  obtain ⟨m, hm, h⟩ := require_next.1 h
  unfold withBound at h
  split at h
  · obtain ⟨b, hb, h⟩ := require_next.1 h
    obtain ⟨n, hn, h⟩ := require_next.1 h
    cases h
    exact ⟨m, b, n, hm, hn, fun _ => hb, rfl⟩
  · rename_i hne
    obtain ⟨n, hn, h⟩ := require_next.1 h
    cases h
    exact ⟨m, 0, n, hm, hn, fun h => absurd h hne, rfl⟩

/-- `P_ALLOC` (spec/44_alloc_scf.md R270 to R273). -/
theorem step_alloc_next {s t : State} (ht : s.top = .busy) (hp : s.phase = .alloc) (h : step s = .next t) :
    ∃ n, s.geo.subbandCount = some n ∧
      ((n ≤ s.sbi ∧ t = { s with phase := .scf, sbi := 0, chan := .ch1 }) ∨
        (s.sbi < n ∧ (t = raise .frameOverrun s ∨
          t = raise (.illegalAllocation s.sbi s.chan)
            { s with bitpos := s.bitpos + 4, hist := s.hist ++ [.getBits 4] } ∨
          t = { s with
            bitpos := s.bitpos + 4, hist := s.hist ++ [.getBits 4], crcAcc := t.crcAcc, sb := t.sb, chan := t.chan
            sbi := t.sbi }))) := by
  cases hn : s.geo.subbandCount with
  | none => simp [step, ht, busyStep, fetch, hp, fetchAlloc, hn] at h
  | some n =>
    refine ⟨n, rfl, ?_⟩
    by_cases hl : s.sbi < n
    · refine .inr ⟨hl, ?_⟩
      rcases step_element_next ht (k := .a4) (by simp [fetch, hp, fetchAlloc, hn, hl]) h with ⟨-, h⟩ | ⟨i, hd, -, h⟩
      · exact .inl h
      · simp only [decodeWord, Except.ok.injEq] at hd
        subst hd
        rw [exec_alloc (decodeAlloc_code _)] at h
        split at h
        · cases h
          exact .inr (.inl rfl)
        · exact .inr (.inr (storeAlloc_frame h))
    · rw [step_sequencer ht (by simp [fetch, hp, fetchAlloc, hn, hl])] at h
      simp only [sequencer, hp, endAlloc] at h
      cases h
      exact .inl ⟨by omega, rfl⟩

/-- `P_SCF` (spec/44_alloc_scf.md R270, R280). -/
theorem step_scf_next {s t : State} (ht : s.top = .busy) (hp : s.phase = .scf) (h : step s = .next t) :
    ∃ n, s.geo.subbandCount = some n ∧
      ((n ≤ s.sbi ∧ t = { s with phase := .gate }) ∨
        (s.sbi < n ∧ (t = raise .frameOverrun s ∨
          t = { s with
            bitpos := s.bitpos + 6, hist := s.hist ++ [.getBits 6], sb := t.sb, chan := t.chan, sbi := t.sbi } ∨
          t = { s with chan := t.chan, sbi := t.sbi }))) := by
  cases hn : s.geo.subbandCount with
  | none => simp [step, ht, busyStep, fetch, hp, fetchScf, hn] at h
  | some n =>
    refine ⟨n, rfl, ?_⟩
    by_cases hl : s.sbi < n
    · refine .inr ⟨hl, ?_⟩
      have skip : fetch s = .noElement → t = { s with chan := t.chan, sbi := t.sbi } := by
        intro hf
        rw [step_sequencer ht hf] at h
        simp only [sequencer, hp, stepScf, hn, require_some, hl, if_true] at h
        obtain ⟨e, -, h⟩ := withSubband_next.1 h
        obtain ⟨v, -, h⟩ := require_next.1 h
        rw [nextSlot_eq] at h
        cases h
        rfl
      have read : fetch s = fetchBits .s6 s → t = raise .frameOverrun s ∨
          t = { s with
            bitpos := s.bitpos + 6, hist := s.hist ++ [.getBits 6], sb := t.sb, chan := t.chan, sbi := t.sbi } := by
        intro hf
        rcases step_element_next ht hf h with ⟨-, h⟩ | ⟨i, hd, -, h⟩
        · exact .inl h
        · simp only [decodeWord, Except.ok.injEq] at hd
          subst hd
          rw [exec_scf (decodeScf_index _)] at h
          exact .inr (storeScf_frame h)
      cases he : s.sb[s.sbi]? with
      | none => simp [step, ht, busyStep, fetch, hp, fetchScf, hn, hl, fetchSubband, he] at h
      | some e =>
        cases hv : e.variant with
        | none => simp [step, ht, busyStep, fetch, hp, fetchScf, hn, hl, fetchSubband, he, hv] at h
        | some v =>
          cases ha : allocFor v s.chan e with
          | none => simp [step, ht, busyStep, fetch, hp, fetchScf, hn, hl, fetchSubband, he, hv, ha] at h
          | some a =>
            by_cases hs : signalled a = true
            · rcases read (by simp [fetch, hp, fetchScf, hn, hl, fetchSubband, he, hv, ha, hs]) with h1 | h1
              · exact .inl h1
              · exact .inr (.inl h1)
            · exact .inr (.inr (skip (by simp [fetch, hp, fetchScf, hn, fetchSubband, he, hv, ha, hs])))
    · rw [step_sequencer ht (by simp [fetch, hp, fetchScf, hn, hl])] at h
      simp only [sequencer, hp, stepScf, hn, require_some, hl, if_false] at h
      cases h
      exact .inl ⟨by omega, rfl⟩

/-- `P_GATE` (spec/45_samples_sink.md R301, R318). -/
theorem step_gate_next {s t : State} (ht : s.top = .busy) (hp : s.phase = .gate) (h : step s = .next t) :
    t = { s with
      gateOk := some false, phase := .samples, rep := 0, sbi := 0, chan := .ch1
      hist := s.hist ++ [.checksumMismatch] } ∨
    t = { s with gateOk := some true, phase := .samples, rep := 0, sbi := 0, chan := .ch1 } ∨
    t = raise .frameOverrun { s with gateOk := some true } := by
  rw [step_sequencer ht (by simp [fetch, hp])] at h
  simp only [sequencer, hp, stepGate] at h
  have opened : openGate s = .next t →
      t = { s with gateOk := some true, phase := .samples, rep := 0, sbi := 0, chan := .ch1 } ∨
      t = raise .frameOverrun { s with gateOk := some true } := by
    intro h
    unfold openGate at h
    obtain ⟨n, -, h⟩ := require_next.1 h
    obtain ⟨w, -, h⟩ := require_next.1 h
    split at h <;> cases h
    · exact .inr rfl
    · exact .inl rfl
  split at h
  · obtain ⟨acc, -, h⟩ := require_next.1 h
    obtain ⟨field, -, h⟩ := require_next.1 h
    split at h
    · exact .inr (opened h)
    · cases h
      exact .inl rfl
  · exact .inr (opened h)

/-- `P_SAMPLES` (spec/45_samples_sink.md R304, R305, R311). -/
theorem step_samples_next {s t : State} (ht : s.top = .busy) (hp : s.phase = .samples) (h : step s = .next t) :
    ∃ n, s.geo.subbandCount = some n ∧
      ((n ≤ s.sbi ∧ endRepetition s = .next t) ∨
        (s.sbi < n ∧ finishSampleSlot s = .next t) ∨
        (s.sbi < n ∧
          (∃ e v a, s.sb[s.sbi]? = some e ∧ e.variant = some v ∧ s.gateOk = some true ∧
            allocFor v s.chan e = some a ∧ signalled a = true ∧ 8 * s.fb.length < s.bitpos + sampleLength a) ∧
          t = raise .frameOverrun s) ∨
        (s.sbi < n ∧ ∃ k r,
          storeSample r { s with bitpos := s.bitpos + k, hist := s.hist ++ [.getBits k] } = .next t)) := by
  cases hn : s.geo.subbandCount with
  | none => simp [step, ht, busyStep, fetch, hp, fetchSample, hn] at h
  | some n =>
    refine ⟨n, rfl, ?_⟩
    by_cases hl : s.sbi < n
    · have skip : fetch s = .noElement → finishSampleSlot s = .next t := by
        intro hf
        rw [step_sequencer ht hf] at h
        simpa only [sequencer, hp, stepSamples, hn, require_some, hl, if_true] using h
      cases hg : s.gateOk with
      | none => simp [step, ht, busyStep, fetch, hp, fetchSample, hn, hl, hg] at h
      | some g =>
        cases g with
        | false => exact .inr (.inl ⟨hl, skip (by simp [fetch, hp, fetchSample, hn, hg])⟩)
        | true =>
          cases he : s.sb[s.sbi]? with
          | none => simp [step, ht, busyStep, fetch, hp, fetchSample, hn, hl, hg, fetchSubband, he] at h
          | some e =>
            cases hv : e.variant with
            | none => simp [step, ht, busyStep, fetch, hp, fetchSample, hn, hl, hg, fetchSubband, he, hv] at h
            | some v =>
              cases ha : allocFor v s.chan e with
              | none => simp [step, ht, busyStep, fetch, hp, fetchSample, hn, hl, hg, fetchSubband, he, hv, ha] at h
              | some a =>
                by_cases hs : signalled a = true
                · rcases step_element_next ht (k := .q (sampleLength a))
                    (by simp [fetch, hp, fetchSample, hn, hl, hg, fetchSubband, he, hv, ha, hs]) h with
                    ⟨hlt, h1⟩ | ⟨i, hd, -, h1⟩
                  · exact .inr (.inr (.inl ⟨hl, ⟨e, v, a, rfl, hv, rfl, ha, hs, hlt⟩, h1⟩))
                  · refine .inr (.inr (.inr ⟨hl, sampleLength a, ?_⟩))
                    have hd : decodeSample (sampleLength a) _ = .ok i := hd
                    have code : ∃ r, i.sampleCode = some (sampleLength a, r) := by
                      by_cases hr : 2 ≤ sampleLength a ∧ sampleLength a ≤ 15
                      · obtain ⟨j, hj, hc⟩ := decodeSample_code hr.1 hr.2
                          ((bitsAt s.fb s.bitpos (Kind.q (sampleLength a)).width).zeroExtend 32)
                        rw [hj] at hd
                        cases hd
                        exact ⟨_, hc⟩
                      · unfold decodeSample at hd
                        split at hd <;> first | omega | cases hd
                    obtain ⟨r, hr⟩ := code
                    rw [exec_sample hr] at h1
                    exact ⟨r, by simpa only [hg, Kind.width] using h1⟩
                · exact .inr (.inl ⟨hl, skip (by
                    simp [fetch, hp, fetchSample, hn, hg, fetchSubband, he, hv, ha, hs])⟩)
    · rw [step_sequencer ht (by simp [fetch, hp, fetchSample, hn, hl])] at h
      simp only [sequencer, hp, stepSamples, hn, require_some, hl, if_false] at h
      exact .inl ⟨by omega, h⟩

/-- `P_DONE` (spec/46_frame_loop_host.md R343). -/
theorem step_done_next {s t : State} (ht : s.top = .busy) (hp : s.phase = .done) (h : step s = .next t) :
    t = finishFrame s := by
  rw [step_sequencer ht (by simp [fetch, hp])] at h
  simp only [sequencer, hp] at h
  cases h
  rfl

end Sys2Proof.Machine
end

