-- ==== Sys2Proof/Tests/Slice0.lean ====
section
/-! SUPPORT. Tests: ill-formed terms each check refuses, every element's decoding from bits written out from the spec,
single steps with the spec's own values (spec/95_test_vectors.md), and for every statement with hypotheses a concrete
state that meets them. -/

namespace Sys2Proof.Tests

open Sys2Proof Sys2Proof.Machine

/-! ### Small states -/

/-- A running command at a phase. -/
def busyAt (p : Phase) : State := { State.reset with top := .busy, phase := p }

/-- A running command at a phase with 32 subbands and a register file whose entry 0 is `e`. -/
def withEntry (p : Phase) (e : SubbandRegs) : State :=
  { busyAt p with
    geo := { Geometry.blank with subbandCount := some 32 }
    sb := blankSubbands.setIfInBounds 0 e
    hdr := { HeaderRegs.blank with mode := some .stereo } }

/-- An entry with its variant and allocation codes. -/
def entry (v : Variant) (a1 a2 : Option (BitVec 4)) : SubbandRegs :=
  { SubbandRegs.blank with variant := some v, alloc1 := a1, alloc2 := a2 }

/-- Every entry `Mono` and not signalled, as in program P1. -/
def silentMono : Vector SubbandRegs 32 := Vector.replicate 32 (entry .mono (some 0#4) none)

/-- The header tail of word 0xFFFE4040 (spec/41_header.md R191 to R198). -/
def tail40 : HdrTail := ⟨0#1, 4#4, 0#2, 0#1, 0#1, 1#2, 0#2, 0#1, 0#1, 0#2⟩

/-- The next state, for reading fields of it; the state itself where the step stops. -/
def after (s : State) (o : Host.Outcome State Fault Refusal) : State :=
  match o with
  | .next t => t
  | .fault _ => s
  | .refused _ => s

/-- Does a step answer a next state? -/
def goesOn (o : Host.Outcome State Fault Refusal) : Bool :=
  match o with
  | .next _ => true
  | .fault _ => false
  | .refused _ => false

/-! ### Ill-formed elements are refused (spec/30_encoding.md R124) -/

theorem test_wf_l0 : (Instr.hdrL0 0b01#2 tail40).wf = false := by decide
theorem test_wf_badrate_version : (Instr.hdrBadRate 0b01#2 0b11#2 { tail40 with sampleRateIndex := 3#2 }).wf = false := by
  decide
theorem test_wf_badrate_layer : (Instr.hdrBadRate 0b11#2 0b00#2 { tail40 with sampleRateIndex := 3#2 }).wf = false := by
  decide
theorem test_wf_badrate_rate : (Instr.hdrBadRate 0b11#2 0b11#2 tail40).wf = false := by decide
theorem test_wf_freefmt :
    (Instr.hdrFreeFmt 0b11#2 0b11#2 tail40).wf = false ∧
    (Instr.hdrFreeFmt 0b01#2 0b11#2 { tail40 with bitrateIndex := 0#4 }).wf = false ∧
    (Instr.hdrFreeFmt 0b11#2 0b00#2 { tail40 with bitrateIndex := 0#4 }).wf = false ∧
    (Instr.hdrFreeFmt 0b11#2 0b11#2 { tail40 with bitrateIndex := 0#4, sampleRateIndex := 3#2 }).wf = false := by decide
theorem test_wf_badbr :
    (Instr.hdrBadBr 0b11#2 0b11#2 tail40).wf = false ∧
    (Instr.hdrBadBr 0b01#2 0b11#2 { tail40 with bitrateIndex := 15#4 }).wf = false ∧
    (Instr.hdrBadBr 0b11#2 0b00#2 { tail40 with bitrateIndex := 15#4 }).wf = false ∧
    (Instr.hdrBadBr 0b11#2 0b11#2 { tail40 with bitrateIndex := 15#4, sampleRateIndex := 3#2 }).wf = false := by decide
theorem test_wf_good_rows :
    (Instr.hdrM1L1 { tail40 with sampleRateIndex := 3#2 }).wf = false ∧
    (Instr.hdrM2L2 { tail40 with bitrateIndex := 0#4 }).wf = false ∧
    (Instr.hdrM25L3 { tail40 with bitrateIndex := 15#4 }).wf = false := by decide
theorem test_wf_scf : (Instr.scf 63#6).wf = false := by decide

/-! ### Every element's decoding, its bits written out field by field (spec/30_encoding.md R111 to R122) -/

/-- bits 11111111111 01 10 1 0000 11 1 0 01 10 1 0 01 -/
theorem test_decode_hdrBadVer : decodeHeader 0b11111111111011010000111001101001#32 =
    .ok (.hdrBadVer 2#2 ⟨1#1, 0#4, 3#2, 1#1, 0#1, 1#2, 2#2, 1#1, 0#1, 1#2⟩) := by decide
/-- bits 11111111111 10 00 0 1111 11 0 1 10 01 0 1 10 -/
theorem test_decode_hdrL0 : decodeHeader 0b11111111111100001111110110010110#32 =
    .ok (.hdrL0 2#2 ⟨0#1, 15#4, 3#2, 0#1, 1#1, 2#2, 1#2, 0#1, 1#1, 2#2⟩) := by decide
/-- bits 11111111111 00 01 1 1111 11 1 1 00 11 0 1 11 -/
theorem test_decode_hdrBadRate : decodeHeader 0b11111111111000111111111100110111#32 =
    .ok (.hdrBadRate 0#2 1#2 ⟨1#1, 15#4, 3#2, 1#1, 1#1, 0#2, 3#2, 0#1, 1#1, 3#2⟩) := by decide
/-- bits 11111111111 11 10 0 0000 01 1 0 10 01 1 0 01 -/
theorem test_decode_hdrFreeFmt : decodeHeader 0b11111111111111000000011010011001#32 =
    .ok (.hdrFreeFmt 3#2 2#2 ⟨0#1, 0#4, 1#2, 1#1, 0#1, 2#2, 1#2, 1#1, 0#1, 1#2⟩) := by decide
/-- bits 11111111111 10 11 1 1111 10 0 1 01 10 0 1 10 -/
theorem test_decode_hdrBadBr : decodeHeader 0b11111111111101111111100101100110#32 =
    .ok (.hdrBadBr 2#2 3#2 ⟨1#1, 15#4, 2#2, 0#1, 1#1, 1#2, 2#2, 0#1, 1#1, 2#2⟩) := by decide
/-- bits 11111111111 11 11 0 0100 00 0 0 01 00 0 0 00 -/
theorem test_decode_hdrM1L1 : decodeHeader 0b11111111111111100100000001000000#32 =
    .ok (.hdrM1L1 ⟨0#1, 4#4, 0#2, 0#1, 0#1, 1#2, 0#2, 0#1, 0#1, 0#2⟩) := by decide
/-- bits 11111111111 11 10 1 1011 01 1 0 10 01 1 0 01 -/
theorem test_decode_hdrM1L2 : decodeHeader 0b11111111111111011011011010011001#32 =
    .ok (.hdrM1L2 ⟨1#1, 11#4, 1#2, 1#1, 0#1, 2#2, 1#2, 1#1, 0#1, 1#2⟩) := by decide
/-- bits 11111111111 11 01 1 1001 00 0 0 01 10 0 1 00 -/
theorem test_decode_hdrM1L3 : decodeHeader 0b11111111111110111001000001100100#32 =
    .ok (.hdrM1L3 ⟨1#1, 9#4, 0#2, 0#1, 0#1, 1#2, 2#2, 0#1, 1#1, 0#2⟩) := by decide
/-- bits 11111111111 10 11 1 0100 10 0 1 11 00 1 0 10 -/
theorem test_decode_hdrM2L1 : decodeHeader 0b11111111111101110100100111001010#32 =
    .ok (.hdrM2L1 ⟨1#1, 4#4, 2#2, 0#1, 1#1, 3#2, 0#2, 1#1, 0#1, 2#2⟩) := by decide
/-- bits 11111111111 10 10 1 0100 00 1 0 01 11 0 1 01 -/
theorem test_decode_hdrM2L2 : decodeHeader 0b11111111111101010100001001110101#32 =
    .ok (.hdrM2L2 ⟨1#1, 4#4, 0#2, 1#1, 0#1, 1#2, 3#2, 0#1, 1#1, 1#2⟩) := by decide
/-- bits 11111111111 10 01 0 1010 01 0 0 00 10 1 1 00 -/
theorem test_decode_hdrM2L3 : decodeHeader 0b11111111111100101010010000101100#32 =
    .ok (.hdrM2L3 ⟨0#1, 10#4, 1#2, 0#1, 0#1, 0#2, 2#2, 1#1, 1#1, 0#2⟩) := by decide
/-- bits 11111111111 00 11 1 1110 10 0 0 11 00 0 0 00 -/
theorem test_decode_hdrM25L1 : decodeHeader 0b11111111111001111110100011000000#32 =
    .ok (.hdrM25L1 ⟨1#1, 14#4, 2#2, 0#1, 0#1, 3#2, 0#2, 0#1, 0#1, 0#2⟩) := by decide
/-- bits 11111111111 00 10 0 0101 01 1 1 10 01 0 1 11 -/
theorem test_decode_hdrM25L2 : decodeHeader 0b11111111111001000101011110010111#32 =
    .ok (.hdrM25L2 ⟨0#1, 5#4, 1#2, 1#1, 1#1, 2#2, 1#2, 0#1, 1#1, 3#2⟩) := by decide
/-- bits 11111111111 00 01 0 1011 10 0 0 11 00 0 1 00 -/
theorem test_decode_hdrM25L3 : decodeHeader 0b11111111111000101011100011000100#32 =
    .ok (.hdrM25L3 ⟨0#1, 11#4, 2#2, 0#1, 0#1, 3#2, 0#2, 0#1, 1#1, 0#2⟩) := by decide
/-- Bit 21 clear: no header (spec/95_test_vectors.md V1). -/
theorem test_decode_not_sync : decodeHeader 0xFFD040C0#32 = .error .notASyncWord := by decide
/-- The checksum field of program P3, after one byte of something else. -/
theorem test_decode_crcw : decodeAt .c16 [0xAA#8, 0xFD#8, 0x30#8] 8 = .ok (.crcw 0xFD30#16) := by decide
/-- The 16 allocation codes, two a byte, the first in the high half. -/
theorem test_decode_alloc :
    (List.range 16).map (fun k => decodeAt .a4 [0x01#8, 0x23#8, 0x45#8, 0x67#8, 0x89#8, 0xAB#8, 0xCD#8, 0xEF#8] (4 * k)) =
      [.ok .alloc0, .ok .alloc1, .ok .alloc2, .ok .alloc3, .ok .alloc4, .ok .alloc5, .ok .alloc6, .ok .alloc7,
        .ok .alloc8, .ok .alloc9, .ok .alloc10, .ok .alloc11, .ok .alloc12, .ok .alloc13, .ok .alloc14, .ok .alloc15] := by
  decide
/-- 111111 then 000100, six bits each, then 62 across a byte boundary. -/
theorem test_decode_scf :
    decodeAt .s6 [0b11111100#8, 0b01001111#8, 0b10000000#8] 0 = .ok .scf63 ∧
    decodeAt .s6 [0b11111100#8, 0b01001111#8, 0b10000000#8] 6 = .ok (.scf 4#6) ∧
    decodeAt .s6 [0b11111100#8, 0b01001111#8, 0b10000000#8] 12 = .ok (.scf 62#6) := by decide

/-- Sample codes of every length at bit 3 of `1A 5C F0`: bits 000 11010010111001111 0000. -/
theorem test_decode_samp2 : decodeAt (.q 2) [0x1A#8, 0x5C#8, 0xF0#8] 3 = .ok (.samp2 0b11#2) := by decide
theorem test_decode_samp3 : decodeAt (.q 3) [0x1A#8, 0x5C#8, 0xF0#8] 3 = .ok (.samp3 0b110#3) := by decide
theorem test_decode_samp4 : decodeAt (.q 4) [0x1A#8, 0x5C#8, 0xF0#8] 3 = .ok (.samp4 0b1101#4) := by decide
theorem test_decode_samp5 : decodeAt (.q 5) [0x1A#8, 0x5C#8, 0xF0#8] 3 = .ok (.samp5 0b11010#5) := by decide
theorem test_decode_samp6 : decodeAt (.q 6) [0x1A#8, 0x5C#8, 0xF0#8] 3 = .ok (.samp6 0b110100#6) := by decide
theorem test_decode_samp7 : decodeAt (.q 7) [0x1A#8, 0x5C#8, 0xF0#8] 3 = .ok (.samp7 0b1101001#7) := by decide
theorem test_decode_samp8 : decodeAt (.q 8) [0x1A#8, 0x5C#8, 0xF0#8] 3 = .ok (.samp8 0b11010010#8) := by decide
theorem test_decode_samp9 : decodeAt (.q 9) [0x1A#8, 0x5C#8, 0xF0#8] 3 = .ok (.samp9 0b110100101#9) := by decide
theorem test_decode_samp10 : decodeAt (.q 10) [0x1A#8, 0x5C#8, 0xF0#8] 3 = .ok (.samp10 0b1101001011#10) := by decide
theorem test_decode_samp11 : decodeAt (.q 11) [0x1A#8, 0x5C#8, 0xF0#8] 3 = .ok (.samp11 0b11010010111#11) := by decide
theorem test_decode_samp12 : decodeAt (.q 12) [0x1A#8, 0x5C#8, 0xF0#8] 3 = .ok (.samp12 0b110100101110#12) := by decide
theorem test_decode_samp13 : decodeAt (.q 13) [0x1A#8, 0x5C#8, 0xF0#8] 3 = .ok (.samp13 0b1101001011100#13) := by decide
theorem test_decode_samp14 : decodeAt (.q 14) [0x1A#8, 0x5C#8, 0xF0#8] 3 = .ok (.samp14 0b11010010111001#14) := by decide
theorem test_decode_samp15 : decodeAt (.q 15) [0x1A#8, 0x5C#8, 0xF0#8] 3 = .ok (.samp15 0b110100101110011#15) := by decide
/-- "Xing" and "VBRI" as bytes; two of the letters swapped are no tag. -/
theorem test_decode_tags :
    decodeAt .t32 [0x58#8, 0x69#8, 0x6E#8, 0x67#8] 0 = .ok .xing ∧
    decodeAt .t32 [0x56#8, 0x42#8, 0x52#8, 0x49#8] 0 = .ok .vbri ∧
    decodeAt .t32 [0x58#8, 0x69#8, 0x67#8, 0x6E#8] 0 = .error .notATag := by decide
/-- Too few bytes. -/
theorem test_decode_short : decodeAt .a4 [0x12#8] 5 = .error .tooFewBits := by decide

/-! ### The host's placement: the table's words decode and run first after reset -/

theorem test_place_header :
    decodeTableWord 32 0xFFFF40C0 = some (.hdrM1L1 ⟨1#1, 4#4, 0#2, 0#1, 0#1, 3#2, 0#2, 0#1, 0#1, 0#2⟩) ∧
    (after State.reset (step (State.reset.withFetchWord 32 0xFFFF40C0))).phase = .body := by decide
theorem test_place_tags :
    decodeTableWord 32 0x58696E67 = some .xing ∧ decodeTableWord 32 0x56425249 = some .vbri ∧
    (after State.reset (step (State.reset.withFetchWord 32 0x58696E67))).probe = .vbri ∧
    (after State.reset (step (State.reset.withFetchWord 32 0x56425249))).probe = .done := by decide +kernel
theorem test_place_crcw :
    decodeTableWord 16 0xFD30 = some (.crcw 0xFD30#16) ∧
    (after State.reset (step (State.reset.withFetchWord 16 0xFD30))).crcField = some 0xFD30#16 := by decide
theorem test_place_fields :
    decodeTableWord 8 14 = some .alloc14 ∧ decodeTableWord 8 63 = some .scf63 ∧
    decodeTableWord 2 3 = some (.samp2 3#2) ∧ decodeTableWord 15 0x7FFF = some (.samp15 0x7FFF#15) ∧
    (after State.reset (step (State.reset.withFetchWord 8 14))).sb[0].alloc1 = some 14#4 ∧
    (after State.reset (step (State.reset.withFetchWord 8 63))).sb[0].scf1 = some 63#6 ∧
    (after State.reset (step (State.reset.withFetchWord 2 3))).sb[0].raw1 = some 3#15 ∧
    (after State.reset (step (State.reset.withFetchWord 15 0x7FFF))).sb[0].raw1 = some 0x7FFF#15 := by decide

/-! ### Single steps with the spec's values -/

/-- The state at `P_HEADER` with a header word. -/
def atHeader (w : Word) : State := { busyAt .header with h := some w }

/-- What spec/95_test_vectors.md V1 prints of a header: `N`, bound, size, slots. -/
def geometryRow (w : Word) : Option Nat × Option Nat × Option Nat × Option Int :=
  let g := (after State.reset (step (atHeader w))).geo
  (g.subbandCount, g.bound, g.frameSize, g.slotCount)

/-- Rows of V1, one a version and layer and more. -/
theorem test_v1_rows :
    [0xFFFE4040#32, 0xFFFF4270#32, 0xFFF740C0#32, 0xFFE7E8C0#32, 0xFFFC5240#32, 0xFFFD1800#32,
        0xFFFDB400#32, 0xFFF54040#32, 0xFFFB9064#32, 0xFFF35000#32, 0xFFE3E6C0#32, 0xFFE2B8C4#32].map geometryRow =
      [(some 32, some 4, some 132, some 0),
        (some 32, some 16, some 136, some 0),
        (some 32, some 0, some 132, some 0),
        (some 32, some 0, some 1532, some 0),
        (some 8, some 4, some 258, some 0),
        (some 30, some 0, some 140, some 0),
        (some 27, some 0, some 668, some 0),
        (some 8, some 4, some 100, some 0),
        (some 27, some 12, some 413, some 381),
        (some 8, some 0, some 126, some 109),
        (some 27, some 0, some 957, some 948),
        (some 30, some 0, some 1004, some 993)] := by decide
/-- Worked `0xFFFB9064` of V1: the ten fields. -/
theorem test_v1_fields :
    (after State.reset (step (atHeader 0xFFFB9064#32))).hdr =
      ⟨some .mpeg1, some .three, some false, some 9#4, some 0#2, some false, some .jointStereo, some 2#2, some false,
        some true⟩ := by decide
/-- The words of V1 that do not decode to a frame. -/
theorem test_v1_faults :
    [0xFFEF40C0#32, 0xFFEFFFFF#32, 0xFFF940C0#32, 0xFFE00000#32, 0xFFFF4CC0#32, 0xFFFFFFFF#32, 0xFFFF00C0#32, 0xFFFFF0C0#32].map
        (fun w => (after State.reset (step (atHeader w))).last) =
      [.exc (.unsupported .badVersion), .exc (.unsupported .badVersion), .exc (.unsupported .reservedLayer),
        .exc (.unsupported .reservedLayer), .exc (.unsupported .reservedSampleRate),
        .exc (.unsupported .reservedSampleRate), .exc (.refused .badBitrateIndex), .exc (.refused .badBitrateIndex)] := by
  decide
/-- V9: the fault bit, `TOP`, and the fields written before the fault. -/
theorem test_v9_badrate :
    (after State.reset (step (atHeader 0xFFFF4CC0#32))).faults = 0x04#8 ∧
    (after State.reset (step (atHeader 0xFFFF4CC0#32))).top = .halted ∧
    (after State.reset (step (atHeader 0xFFFF4CC0#32))).hdr.bitrateIndex = some 4#4 ∧
    (after State.reset (step (atHeader 0xFFFF4CC0#32))).hdr.srIndex = none := by decide
/-- V3: strict matches of `0xFFFF40C0`. -/
theorem test_v3 :
    [0xFFFF50C0#32, 0xFFFF42C0#32, 0xFFFF40F0#32, 0xFFFF52FC#32, 0xFFFF44C0#32, 0xFFFE40C0#32, 0xFFFF41C0#32, 0xFFFF40C1#32].map
        (syncPred Config.defaultParams.lockMask .strictSync 0xFFFF00C0#32) =
      [true, true, true, true, false, false, false, false] := by decide
/-- V4: the seed of `0xFFFE4040` and the stored field, by a step at `P_CRCW`. -/
theorem test_v4_crcw :
    let s := { busyAt .crcw with
      h := some 0xFFFE4040#32, fb := [0xFD#8, 0x30#8, 0x00#8], hdr := { HeaderRegs.blank with prot := some true } }
    (after s (step s)).crcAcc = some 0x8188#16 ∧ (after s (step s)).crcField = some 0xFD30#16 ∧
    (after s (step s)).bitpos = 16 := by decide +kernel
/-- V4: `0x028B; CRC.ADD(5, 4)` and `CRC.ADD(14, 4)`, folded by an allocation read. -/
theorem test_v4_fold :
    let s := fun b : Byte => { withEntry .alloc (entry .mono none none) with
      fb := [b], crcAttached := true, crcAcc := some 0x028B#16, crcField := some 0#16 }
    (after (s 0x50#8) (step (s 0x50#8))).crcAcc = some 0x28AE#16 ∧
    (after (s 0xE0#8) (step (s 0xE0#8))).crcAcc = some 0xA897#16 := by decide
/-- V6: `FB[0..2] = 12 34 5F` in `STEREO`: the second code of subband 2 is the reserved one, `BITPOS = 24`. -/
theorem test_v6_alloc15 :
    let s := { busyAt .alloc with
      geo := { Geometry.blank with subbandCount := some 32 }, fb := [0x12#8, 0x34#8, 0x5F#8], bitpos := 20, sbi := 2
      chan := .ch2, sb := Vector.replicate 32 (entry .stereo (some 5#4) none) }
    (after s (step s)).last = .exc (.illegalAllocation 2 .ch2) ∧ (after s (step s)).bitpos = 24 ∧
    (after s (step s)).faults = 0x08#8 ∧ (after s (step s)).top = .idle ∧ (after s (step s)).fb = [] := by decide
/-- V6: the first code of a `Stereo` subband hands over to channel 2; that of an `ISX` subband does not. -/
theorem test_v6_alloc_slots :
    let s := fun v => { withEntry .alloc (entry v none none) with fb := [0x9F#8] }
    (after (s .stereo) (step (s .stereo))).chan = .ch2 ∧ (after (s .stereo) (step (s .stereo))).sbi = 0 ∧
    (after (s .isx) (step (s .isx))).chan = .ch1 ∧ (after (s .isx) (step (s .isx))).sbi = 1 ∧
    (after (s .isx) (step (s .isx))).sb[0].alloc1 = some 9#4 := by decide
/-- An `ISX` subband has two indices against one code (spec/44_alloc_scf.md R283); `Mono` has one. -/
theorem test_scf_slots :
    let s := fun v => { withEntry .scf (entry v (some 4#4) none) with fb := [0xFC#8, 0x00#8] }
    (after (s .isx) (step (s .isx))).chan = .ch2 ∧ (after (s .isx) (step (s .isx))).sb[0].scf1 = some 63#6 ∧
    (after (s .mono) (step (s .mono))).sbi = 1 ∧ (after (s .mono) (step (s .mono))).faults = 0#8 := by decide
/-- Rows of V7. -/
theorem test_v7 :
    let d := Config.defaultParams
    deq d 7#15 2#4 = single 0x3F924924#32 ∧ scl d (deq d 7#15 2#4) 62#6 = single 0x35B84EF6#32 ∧
    scl d (deq d 0#15 14#4) 63#6 = single 0x80000000#32 ∧ scl d (deq d 32767#15 14#4) 1#6 = single 0x3FCB318B#32 ∧
    scl d (deq d 127#15 7#4) 62#6 = single 0x29A14518#32 ∧ scl d (deq d 3#15 1#4) 0#6 = single 0x402AAAAA#32 := by decide
/-- Each parameter is read from the configuration (spec/00_scope.md R6): a rate table with other entries changes the body's
size by hand calculation (`4*(12*64000/8000) - 4 = 380`), and another generator the accumulator. -/
theorem test_params_read :
    let d := Config.defaultParams
    let p := { d with
      freq := { d.freq with mpeg1 := #v[8000, 8000, 8000] }, lockMask := 0xFFE00000#32, frameBufCap := 4000
      bitrate := { d.bitrate with mpeg1 := { d.bitrate.mpeg1 with one := Vector.replicate 16 64000 } }
      crc := { d.crc with poly := 0x1021#16, init := 0#16 } }
    (geometryOf p .mpeg1 .one tail40).frameSize = some 380 ∧
    syncPred p.lockMask .strictSync 0xFFE00000#32 0xFFFF5000#32 = true ∧ crcAdd p.crc 0#16 1 1 = 0x1021#16 := by
  decide
/-- The check values of the usual catalogue for the string "123456789": CRC-16/ARC reflects both ways with initial value 0
(0xBB3D), CRC-16/USB also inverts the result (0xB4C8), CRC-16/XMODEM has another generator (0x31C3). -/
theorem test_crc_catalogue :
    let c := fun (p : CrcParams) => crcResult p
      ([0x31, 0x32, 0x33, 0x34, 0x35, 0x36, 0x37, 0x38, 0x39].foldl (fun x b => crcAdd p x b 8) p.init)
    c ⟨0x8005#16, 0#16, true, true, 0#16⟩ = 0xBB3D#16 ∧ c ⟨0x8005#16, 0xFFFF#16, true, true, 0xFFFF#16⟩ = 0xB4C8#16 ∧
    c ⟨0x1021#16, 0#16, false, false, 0#16⟩ = 0x31C3#16 := by decide +kernel
/-- A 16-bit format (5 exponent bits, 10 fraction bits): one third of 1, `0x3C00 * 0x3555`, and 1 + 2^-11, a tie, under the
five roundings; the same negated under the two directed ones (hand calculation). -/
theorem test_formats :
    let b := fun r => (⟨5, 10, r⟩ : BinaryFormat)
    let x := sampleOfBits (b .nearestEven)
    let f := fun r => NumberFormat.binary (b r)
    sampleMul (f .nearestEven) (x 0x3C00) (x 0x3555) = x 0x3555 ∧
    [Rounding.nearestEven, .nearestAway, .towardZero, .towardPositive, .towardNegative].map
        (fun r => sampleAdd (f r) (x 0x3C00) (x 0x1000)) =
      [0x3C00, 0x3C01, 0x3C00, 0x3C01, 0x3C00].map x ∧
    sampleAdd (f .towardNegative) (x 0xBC00) (x 0x9000) = x 0xBC01 ∧
    sampleAdd (f .towardPositive) (x 0xBC00) (x 0x9000) = x 0xBC00 ∧
    sampleMul (f .nearestEven) (x 0x7BFF) (x 0x7BFF) = x 0x7C00 ∧
    sampleMul (f .towardZero) (x 0x7BFF) (x 0x7BFF) = x 0x7BFF ∧
    sampleMul (f .nearestEven) (x 0x0001) (x 0x3800) = x 0 ∧
    sampleMul (f .nearestEven) (x 0x8001) (x 0x3801) = x 0x8001 := by decide
/-- Two thirds in the 64-bit format (11 exponent bits, 52 fraction bits), whose pattern is `3FE5555555555555`, and exactly;
the exact value for `a = 2`, `raw = 3` is 0, that for `a = 1`, `raw = 3` is 4/3 (spec/45_samples_sink.md R313). -/
theorem test_wide_and_exact :
    let double : BinaryFormat := ⟨11, 52, .nearestEven⟩
    let p := { Config.defaultParams with format := .exact }
    rnd (.binary double) false (mkRat 2 3) = sampleOfBits double 0x3FE5555555555555 ∧
    deq { p with format := .binary double } 2#15 1#4 = sampleOfBits double 0x3FE5555555555555 ∧
    factor p 1#4 = .number (mkRat 2 3) ∧ deq p 3#15 2#4 = .number 0 ∧ deq p 3#15 1#4 = .number (mkRat 4 3) := by decide
/-- Infinities and NaN as IEEE 754 has them. -/
theorem test_not_finite :
    let f := NumberFormat.binary binary32
    let inf := single 0x7F800000#32
    sampleMul f inf (single 0xBF800000#32) = single 0xFF800000#32 ∧ sampleMul f inf (.number 0) = .notANumber ∧
    sampleAdd f inf (single 0xFF800000#32) = .notANumber ∧ sampleAdd f (.number 1) inf = inf ∧
    sampleAdd f (.number 1) (.number (-1)) = .number 0 ∧
    sampleAdd f .negativeZero .negativeZero = single 0x80000000#32 := by decide
/-- `SUBBANDS_L23(h)` by version and layer, which R203's own function does not look at. -/
theorem test_subband_table :
    let p := { Config.defaultParams with
      subbandsL23 := .table [⟨0x00180000#32, 0x00100000#32, 11⟩, ⟨0x00060000#32, 0x00040000#32, 22⟩] 33 }
    subbandsL23 p .mpeg2Lsf .two tail40 = 11 ∧ subbandsL23 p .mpeg1 .two tail40 = 22 ∧
    subbandsL23 p .mpeg25Lsf .three tail40 = 33 := by decide
/-- P2, repetition 0: raw 0 of `SB[0]`, code 1, index 4, goes to sink 1. -/
theorem test_p2_sample :
    let s := { withEntry .samples { entry .mono (some 1#4) none with scf1 := some 4#6 } with
      gateOk := some true, fb := [0x00#8], hdr := { HeaderRegs.blank with mode := some .singleChannel } }
    (after s (step s)).hist = [.getBits 2, .skInput .sk1 0 (single 0xBF07754E#32)] ∧ (after s (step s)).sbi = 1 := by
  decide
/-- P3, repetition 0: `SB[4]`, code 4, raw 0, indices 0 and 12, two scalings of one value, sink 1 first. -/
theorem test_p3_isx :
    let s := { withEntry .samples { entry .isx (some 4#4) none with scf1 := some 0#6, scf2 := some 12#6 } with
      gateOk := some true, fb := [0x00#8] }
    (after s (step s)).hist =
      [.getBits 5, .skInput .sk1 0 (single 0xBFF7BDEF#32), .skInput .sk2 0 (single 0xBDF7BDEF#32)] := by decide
/-- P3, repetition 0: `SB[1] = (0, 3)`, raw2 15, index 6: channel 1 is silent; with `LEFT` only its zero is sent. -/
theorem test_p3_stereo :
    let s := fun c => { withEntry .samples { entry .stereo (some 0#4) (some 3#4) with scf2 := some 6#6 } with
      gateOk := some true, fb := [0xF0#8], chan := .ch2, chsel := c }
    (after (s .both) (step (s .both))).hist =
      [.getBits 4, .skInput .sk1 0 (single 0x00000000#32), .skInput .sk2 0 (single 0x3F088888#32)] ∧
    (after (s .left) (step (s .left))).hist = [.getBits 4, .skInput .sk1 0 (single 0x00000000#32)] := by decide

/-- A frame buffer of `n` zero bytes with some set. -/
def buffer (n : Nat) (xs : List (Nat × Byte)) : List Byte := xs.foldl (fun l x => l.set x.1 x.2) (List.replicate n 0#8)

/-- The probe at the "Xing" tag of a mono `MPEG1` frame. -/
def atXing (n : Nat) (xs : List (Nat × Byte)) : State :=
  { busyAt .vbr with
    probe := .xing
    hdr := { HeaderRegs.blank with version := some .mpeg1, mode := some .singleChannel }
    fb := buffer n ([(17, 0x58#8), (18, 0x69#8), (19, 0x6E#8), (20, 0x67#8)] ++ xs) }

/-- V5 X4: only the byte count is there, at the running offset. -/
theorem test_v5_x4 :
    let s := atXing 168 [(24, 0x02#8), (27, 0x01#8), (28, 0xF4#8)]
    (after s (step s)).vbr = ⟨true, none, some 500#32, none, none⟩ := by decide +kernel
/-- V5 X6: the TOC does not fit: the two counts stay. -/
theorem test_v5_x6 :
    let s := atXing 132 [(24, 0x07#8), (27, 0x01#8), (28, 0xF4#8), (30, 0x03#8), (31, 0x0D#8), (32, 0x40#8)]
    (after s (step s)).vbr = ⟨true, some 500#32, some 200000#32, none, none⟩ ∧
    (after s (step s)).last = .exc .vbrHeaderCorrupt ∧ (after s (step s)).faults = 0x10#8 := by decide +kernel
/-- V5 B1 and B3: the counts at 42 and 46; with 48 bytes only the first. -/
theorem test_v5_b1_b3 :
    let s := fun n => { busyAt .vbr with
      probe := .vbri, vbr := ⟨true, some 7#32, none, none, none⟩
      fb := buffer n
        [(32, 0x56#8), (33, 0x42#8), (34, 0x52#8), (35, 0x49#8), (43, 0x01#8), (44, 0x86#8), (45, 0xA0#8), (49, 0xFA#8)] }
    (after (s 132) (step (s 132))).vbr = ⟨true, some 250#32, some 100000#32, none, none⟩ ∧
    (after (s 48) (step (s 48))).vbr = ⟨true, none, some 100000#32, none, none⟩ ∧
    (after (s 48) (step (s 48))).top = .halted := by decide +kernel

/-- V9: stream `FF FE 40`: three bytes are consumed and `LostSync` is raised. -/
theorem test_v9_lost_sync :
    let s := { busyAt .sync with stream := streamOfBytes [0xFF#8, 0xFE#8, 0x40#8] false }
    (after s (step s)).pos = 3 ∧ (after s (step s)).last = .exc .lostSync ∧ (after s (step s)).faults = 0x02#8 := by
  decide
/-- The search skips garbage and takes the first header; the reader stands behind it. -/
theorem test_search :
    let s := { busyAt .sync with stream := streamOfBytes [0x00#8, 0xFF#8, 0xFF#8, 0xFF#8, 0x40#8, 0xC0#8] false }
    (after s (step s)).h = some 0xFFFFFF40#32 ∧ (after s (step s)).pos = 5 := by decide
/-- V9: 32 codes of 14 ask for 480 bits a repetition: `FrameOverrun` at the gate, `TOP = IDLE`, no sink event. -/
theorem test_v9_gate :
    let s := { busyAt .gate with
      geo := { Geometry.blank with subbandCount := some 32 }, bitpos := 320, fb := List.replicate 132 0#8
      sb := Vector.replicate 32 (entry .mono (some 14#4) none) }
    (after s (step s)).last = .exc .frameOverrun ∧ (after s (step s)).top = .idle ∧
    (after s (step s)).hist = [.rdClose] := by decide +kernel

/-! ### Memory -/

/-- Writing the unlisted value removes the cell; the form stays canonical. -/
theorem test_mem_remove : memWrite (memWrite [] 5 0x12#8) 5 0#8 = [] := by decide
theorem test_mem_order : memWrite (memWrite [] 5 0x12#8) 3 0x34#8 = [(3, 0x34#8), (5, 0x12#8)] := by decide

/-! ### Witnesses: states and operands that meet the hypotheses of the statements -/

/-- A state and an outcome: the step answers. -/
theorem goesOn_next {o : Host.Outcome State Fault Refusal} (h : goesOn o = true) : ∃ t, o = .next t := by
  cases o with
  | next t => exact ⟨t, rfl⟩
  | fault f => cases h
  | refused r => cases h

/-- DecodeEncodeAgree, ElementReadFromBytes: the greatest index of `SCF`, and a row of the nine. -/
theorem test_witness_wf : (Instr.scf 62#6).wf = true ∧ (Instr.hdrM25L3 { tail40 with bitrateIndex := 14#4 }).wf = true := by
  decide
/-- DecodedWordsReencode. -/
theorem test_witness_decoded : decodeWord .s6 0xFFFFFFFF#32 = .ok .scf63 := by decide
/-- GetBitsReads: the last four bits of the buffer, and sixteen. -/
theorem test_witness_getbits :
    (4 : Nat) + 4 ≤ 8 * [0xA5#8].length ∧ (getBits 4 { State.reset with fb := [0xA5#8], bitpos := 4 }).map (·.1) = some 5#4 ∧
    (getBits 16 { State.reset with fb := [0xA5#8, 0x5A#8] }).map (·.1) = some 0xA55A#16 := by decide
/-- OverReadRaises: one bit too few. -/
theorem test_witness_overread :
    let s := { withEntry .alloc (entry .mono none none) with fb := [0x12#8], bitpos := 5 }
    s.top = .busy ∧ ElementAt s .a4 ∧ 8 * s.fb.length < s.bitpos + Kind.a4.width :=
  ⟨rfl, .inr (.inl ⟨rfl, rfl, 32, rfl, by decide⟩), by decide⟩
/-- ResetCommand, SetChannelsResult, DecodeFrameStarts, CommandsOutOfPlace. -/
theorem test_witness_commands :
    (∃ s : State, s.top ≠ .busy ∧ s.host = [.reset] ∧ s.faults = 0x02#8) ∧
    (∃ s : State, s.top = .idle ∧ s.host = [.setChannels .left]) ∧
    (∃ s : State, s.top = .halted ∧ s.host = [.setChannels .left]) ∧
    (∃ s : State, s.top = .idle ∧ s.host = [.decodeFrame]) ∧
    (∃ s : State, s.top = .halted ∧ s.host = [.decodeFrame]) ∧
    (∃ s t : State, s.top = .busy ∧ step s = .next t) ∧
    (∃ s : State, s.top ≠ .busy ∧ s.host = []) ∧
    (∃ s : State, s.top ≠ .busy ∧ s.host = [.attach [0x12#8, 0x34#8] false 1]) ∧
    (∃ s : State, s.top = .halted ∧ s.host = [.moveReader 7]) :=
  ⟨⟨{ State.reset with top := .halted, host := [.reset], faults := 0x02#8 }, by decide, rfl, rfl⟩,
    ⟨{ State.reset with host := [.setChannels .left] }, rfl, rfl⟩,
    ⟨{ State.reset with top := .halted, host := [.setChannels .left] }, rfl, rfl⟩,
    ⟨{ State.reset with host := [.decodeFrame] }, rfl, rfl⟩,
    ⟨{ State.reset with top := .halted, host := [.decodeFrame] }, rfl, rfl⟩,
    ⟨busyAt .done, _, rfl, rfl⟩, ⟨State.reset, by decide, rfl⟩,
    ⟨{ State.reset with host := [.attach [0x12#8, 0x34#8] false 1] }, by decide, rfl⟩,
    ⟨{ State.reset with top := .halted, host := [.moveReader 7] }, rfl, rfl⟩⟩
/-- CommandsOutOfPlace: what an attached stream reads as at its last byte and beyond, its end, and the reader's position; and
what the host reads after a command that an exception has ended: the checksum registers stay. -/
theorem test_witness_host :
    let s := { State.reset with host := [.attach [0x12#8, 0x34#8] false 1, .moveReader 7] }
    let t := after s (step s)
    memRead t.stream.cells 1 = 0x34#8 ∧ memRead t.stream.cells 2 = 0#8 ∧ t.stream.len = some 2 ∧ t.pos = 1 ∧
    (after t (step t)).pos = 7 ∧
    (let c := { busyAt .alloc with
      geo := { Geometry.blank with subbandCount := some 32 }, crcAttached := true, crcField := some 5#16
      crcAcc := some 6#16 };
      hostView c = none ∧
      (hostView (after c (step c))).map (fun v => (v.last, v.crcAttached, v.crcField, v.crcAcc)) =
        some (.exc .frameOverrun, true, some 5#16, some 6#16)) := by decide
/-- StepRunsElement, its four clauses. -/
theorem test_witness_runs :
    ((atHeader 0xFFFE4040#32).top = .busy ∧ (atHeader 0xFFFE4040#32).phase = .header ∧
      decodeHeader 0xFFFE4040#32 = .ok (.hdrM1L1 tail40)) ∧
    (let s := { withEntry .samples (entry .mono (some 14#4) none) with gateOk := some true, fb := [0xFF#8, 0xFE#8] };
      ElementAt s (.q 15) ∧ decodeAt (.q 15) s.fb s.bitpos = .ok (.samp15 0x7FFF#15)) ∧
    (let s := atXing 21 [];
      s.top = .busy ∧ s.phase = .vbr ∧ s.probe = .xing ∧ specSide .mpeg1 .singleChannel + 4 ≤ s.fb.length ∧
        bytesAt s (specSide .mpeg1 .singleChannel) = 0x58696E67) ∧
    (let s := { busyAt .vbr with
        probe := .vbri, fb := buffer 36 [(32, 0x56#8), (33, 0x42#8), (34, 0x52#8), (35, 0x49#8)] };
      36 ≤ s.fb.length ∧ bytesAt s 32 = 0x56425249) :=
  ⟨by decide, ⟨.inr (.inr (.inr ⟨rfl, rfl, 32, _, .mono, 14#4, rfl, by decide, rfl, rfl, rfl, by decide, rfl⟩)),
    by decide⟩, by decide, by decide⟩
/-- StepRunsElement: an element of each other body format stands where it says. -/
theorem test_witness_places :
    ElementAt { busyAt .crcw with hdr := { HeaderRegs.blank with prot := some true } } .c16 ∧
    ElementAt { withEntry .scf (entry .isx (some 1#4) none) with chan := .ch2 } .s6 :=
  ⟨.inl ⟨rfl, rfl, rfl⟩,
    .inr (.inr (.inl ⟨rfl, rfl, 32, _, .isx, 1#4, rfl, by decide, rfl, rfl, rfl, by decide⟩))⟩
/-- HeaderResult, both clauses. -/
theorem test_witness_header :
    HeaderOf (.hdrM1L1 tail40) .mpeg1 .one tail40 ∧ (Instr.hdrM1L1 tail40).wf = true ∧
    HeaderOf (.hdrM25L3 tail40) .mpeg25Lsf .three tail40 ∧ (Instr.hdrM25L3 tail40).wf = true := by
  simp [HeaderOf]
  decide
/-- HeaderFaultsRaise: the versions and layers of its clauses, and the field values. -/
theorem test_witness_faults :
    SpecVersion 3#2 .mpeg1 ∧ SpecVersion 0#2 .mpeg25Lsf ∧ SpecLayer 3#2 .one ∧ SpecLayer 1#2 .three ∧
    { tail40 with sampleRateIndex := 3#2 }.sampleRateIndex = 3#2 ∧
    ({ tail40 with bitrateIndex := 0#4 }.sampleRateIndex ≠ 3#2 ∧ { tail40 with bitrateIndex := 0#4 }.bitrateIndex = 0#4) ∧
    { tail40 with bitrateIndex := 15#4 }.bitrateIndex = 15#4 := by
  simp [SpecVersion, SpecLayer, tail40]
/-- HeaderFrame: a row that completes and a row that raises. -/
theorem test_witness_header_frame :
    (Instr.hdrM1L1 tail40).headerFields = some ⟨3#2, 3#2, tail40⟩ ∧
    (∃ t, exec (.hdrM1L1 tail40) State.reset = .next t) ∧ (∃ t, exec (.hdrL0 3#2 tail40) State.reset = .next t) :=
  ⟨rfl, ⟨_, rfl⟩, ⟨_, rfl⟩⟩
/-- FrameSizeRange: the least body, 20 bytes (`MPEG2_LSF`, layer 3, index 1, 24000 Hz), meets its hypotheses. -/
theorem test_witness_frame_size :
    tail40.bitrateIndex ≠ 0#4 ∧ tail40.bitrateIndex ≠ 15#4 ∧ tail40.sampleRateIndex ≠ 3#2 ∧
    (geometryOf Config.defaultParams .mpeg2Lsf .three { tail40 with bitrateIndex := 1#4, sampleRateIndex := 1#2 }).frameSize = some 20 := by
  decide
/-- BoundWithinCount: the configuration of R6 meets its hypothesis; a clamp that acts. -/
theorem test_witness_bound :
    (∀ t : HdrTail, subbandsL23 Config.defaultParams .mpeg1 .two t ≤ 32) ∧
    (geometryOf Config.defaultParams .mpeg1 .two { tail40 with bitrateIndex := 5#4, modeExtension := 3#2 }).bound = some 8 :=
  ⟨subbandsL23_default_le _ _, by decide⟩
/-- CrcAddLoop: two groups of bits, the second at its greatest value. -/
theorem test_witness_crc : 15 < 2 ^ 4 ∧ Config.defaultParams.crc.reflectIn = false ∧ crcAdd Config.defaultParams.crc 0x8188#16 2 4 = 0x18BC#16 := by decide
/-- CrcwResult, ReadChecksumField. -/
theorem test_witness_crcw :
    (atHeader 0xFFFE4040#32).h = some 0xFFFE4040#32 ∧
    (let s := fun p n => { busyAt .crcw with
      h := some 0xFFFE4040#32, hdr := { HeaderRegs.blank with prot := some p }, fb := List.replicate n 0#8 };
      (s true 2).hdr.prot = some true ∧ (s true 2).bitpos + 16 ≤ 8 * (s true 2).fb.length ∧
      8 * (s true 1).fb.length < (s true 1).bitpos + 16 ∧ (s false 0).hdr.prot = some false) := by decide
/-- AllocStored, AllocFrame: the entry at the last subband, with an accumulator and without. -/
theorem test_witness_alloc :
    Instr.alloc14.allocCode = some 14#4 ∧ Instr.alloc15.allocCode = some 15#4 ∧
    (let s := { busyAt .alloc with
      sb := blankSubbands.setIfInBounds 31 (entry .stereo none none), sbi := 31, crcAttached := true
      crcAcc := some 0#16 };
      s.sb[s.sbi]? = some (entry .stereo none none) ∧ (s.crcAttached = true → s.crcAcc ≠ none) ∧
      goesOn (exec .alloc14 s) = true) ∧
    goesOn (exec .alloc0 (withEntry .alloc (entry .mono none none))) = true ∧
    goesOn (exec .alloc15 State.reset) = true := by decide
/-- ScfStored, ScfFrame. -/
theorem test_witness_scf :
    Instr.scf63.scfIndex = some 63#6 ∧ (Instr.scf 62#6).scfIndex = some 62#6 ∧
    (withEntry .scf (entry .isx (some 1#4) none)).sb[0]? = some (entry .isx (some 1#4) none) ∧
    goesOn (exec .scf63 (withEntry .scf (entry .isx (some 1#4) none))) = true := by decide
/-- SampleFirstOfStereo, SampleOfMono, SampleSecondOfStereo, SampleOfIsx, SampleFrame: their entries, at the shortest and
the longest code, and what a channel 1 ready for the mux is. -/
theorem test_witness_samples :
    (Instr.samp2 3#2).sampleCode = some (2, 3#15) ∧ (Instr.samp15 0x7FFF#15).sampleCode = some (15, 0x7FFF#15) ∧
    2 = (1#4).toNat + 1 ∧ 15 = (14#4).toNat + 1 ∧
    (withEntry .samples { entry .mono (some 14#4) none with scf1 := some 0#6 }).sb[0]? =
      some { entry .mono (some 14#4) none with scf1 := some 0#6 } ∧
    (let s := { withEntry .samples { entry .isx (some 1#4) none with scf1 := some 0#6, scf2 := some 63#6 } with
      gateOk := some true };
      s.gateOk = some true ∧ s.hdr.mode = some .stereo ∧ s.chan = .ch1 ∧ goesOn (exec (.samp2 3#2) s) = true) ∧
    (let s := { withEntry .samples { entry .stereo (some 0#4) (some 1#4) with scf2 := some 0#6 } with
      gateOk := some true, chan := .ch2 };
      s.sb[0]? = some { entry .stereo (some 0#4) (some 1#4) with scf2 := some 0#6 } ∧
        goesOn (exec (.samp2 3#2) s) = true) ∧
    (let s := withEntry .samples (entry .stereo (some 14#4) none);
      s.sb[0]? = some (entry .stereo (some 14#4) none) ∧ s.chan = .ch1 ∧
        goesOn (exec (.samp15 0x7FFF#15) s) = true) := by decide
/-- SampleSecondOfStereo, SilentTurn: a channel 1 that is not signalled, and one that is. -/
theorem test_witness_ready :
    ChannelReady Config.defaultParams (some 0#4) none none (.number 0) ∧
    ChannelReady Config.defaultParams (some 1#4) (some 3#15) (some 4#6) (dequantized Config.defaultParams 3#15 1#4 4#6) :=
  ⟨.inl ⟨rfl, rfl⟩, .inr ⟨1#4, 3#15, 4#6, rfl, by decide, rfl, rfl, rfl⟩⟩
/-- SilentTurn: each of its clauses, by the entry and the gate; the turn is taken. -/
theorem test_witness_silent :
    let s := fun g e c => { withEntry .samples e with gateOk := some g, chan := c }
    goesOn (step (s false (entry .stereo (some 3#4) (some 3#4)) .ch1)) = true ∧
    goesOn (step (s true (entry .stereo (some 0#4) (some 3#4)) .ch1)) = true ∧
    goesOn (step (s false (entry .mono (some 3#4) none) .ch1)) = true ∧
    goesOn (step (s false (entry .isx (some 3#4) none) .ch1)) = true ∧
    goesOn (step (s false (entry .stereo (some 3#4) (some 3#4)) .ch2)) = true ∧
    goesOn (step (s true (entry .mono (some 0#4) none) .ch1)) = true ∧
    goesOn (step (s true (entry .isx (some 0#4) none) .ch1)) = true ∧
    goesOn (step (s true (entry .stereo (some 0#4) (some 0#4)) .ch2)) = true ∧
    (s true (entry .mono (some 0#4) none) .ch1).geo.subbandCount = some 32 ∧
    (s true (entry .mono (some 0#4) none) .ch1).sbi < 32 := by decide
/-- TablesRounded, RoundToNearestEven, SentinelScaleIsZero. -/
theorem test_witness_numbers :
    let p := { Config.defaultParams with format := .exact }
    14#4 ≠ 0#4 ∧ 14#4 ≠ 15#4 ∧ 62#6 ≠ 63#6 ∧ 0 < 3 ∧ 3 ∣ 6 ∧ (2 : Rat) ^ (-126 : Int) ≤ |1| ∧ |1| < (2 : Rat) ^ (127 : Int) ∧
    p.format = .exact ∧ p.factor = Config.defaultParams.factor ∧ p.offset = Config.defaultParams.offset ∧
    Config.defaultParams.format = .binary binary32 ∧ scale p 63#6 = .number 0 ∧ tail40.sampleRateIndex ≠ 3#2 ∧
    0xFFFE4040#32 &&& 0xFFE00000#32 = 0xFFE00000#32 ∧ SpecVersion ((0xFFFE4040#32).extractLsb' 19 2) .mpeg1 ∧
    SpecLayer ((0xFFFE4040#32).extractLsb' 17 2) .one := by
  refine ⟨by decide, by decide, by decide, by decide, by decide, ?_, ?_, rfl, rfl, rfl, rfl, by decide, by decide,
    by decide, .inl (by decide), .inl (by decide)⟩ <;> norm_num
/-- XingResult: a block that just fits, with no field and with all. -/
theorem test_witness_xing :
    let s := fun n f => atXing n [(24, f)]
    (s 25 0x00#8).hdr.version = some .mpeg1 ∧ (s 25 0x00#8).hdr.mode = some .singleChannel ∧
    specSide .mpeg1 .singleChannel + 8 ≤ (s 25 0x00#8).fb.length ∧
    (s 137 0x0F#8).fb.getD (specSide .mpeg1 .singleChannel + 7) 0#8 = 0x0F#8 ∧
    specSide .mpeg1 .singleChannel + 8 + 4 * 1 + 4 * 1 + 100 * 1 + 4 * 1 ≤ (s 137 0x0F#8).fb.length ∧
    goesOn (exec .xing (s 137 0x0F#8)) = true ∧ goesOn (exec .xing (s 25 0x00#8)) = true := by decide +kernel
/-- XingCorrupt: one byte too few, for the flag word and for the last field. -/
theorem test_witness_xing_corrupt :
    let s := fun n f => atXing n [(24, f)]
    (s 24 0x00#8).fb.length < specSide .mpeg1 .singleChannel + 8 ∧
    (s 136 0x0F#8).fb.getD (specSide .mpeg1 .singleChannel + 7) 0#8 = 0x0F#8 ∧
    (s 136 0x0F#8).fb.length < specSide .mpeg1 .singleChannel + 8 + 4 * 1 + 4 * 1 + 100 * 1 + 4 * 1 ∧
    (after (s 136 0x0F#8) (exec .xing (s 136 0x0F#8))).last = .exc .vbrHeaderCorrupt := by decide +kernel
/-- VbriResult: 50, 49 and 46, 45 bytes. ProbeFrame: a next state. -/
theorem test_witness_vbri :
    let s := fun n => { State.reset with fb := List.replicate n 0#8 }
    50 ≤ (s 50).fb.length ∧ (46 ≤ (s 49).fb.length ∧ (s 49).fb.length < 50) ∧ 46 ≤ (s 46).fb.length ∧
    (s 45).fb.length < 46 ∧ goesOn (exec .vbri (s 50)) = true ∧ goesOn (exec .vbri (s 45)) = true := by decide
/-- ProbeStages, its six clauses; ProbeRunsOnce: a step that changes `FIRST` and one that changes the VBR registers. -/
theorem test_witness_probe :
    let s := fun p f l => { busyAt .vbr with
      probe := p, first := f
      hdr := { HeaderRegs.blank with version := some .mpeg1, mode := some .singleChannel, layer := some l } }
    (after (s .start true .one) (step (s .start true .one))).first = false ∧
    goesOn (step (s .start false .one)) = true ∧
    (s .xing false .one).fb.length < specSide .mpeg1 .singleChannel + 4 ∧
    bytesAt { s .xing false .one with fb := List.replicate 21 0#8 } (specSide .mpeg1 .singleChannel) ≠ 0x58696E67 ∧
    bytesAt { s .vbri false .one with fb := List.replicate 36 0#8 } 32 ≠ 0x56425249 ∧
    (after (s .done false .one) (step (s .done false .one))).phase = .construct ∧
    (after (s .done false .two) (step (s .done false .two))).last = .exc (.refused .layerNotDecoded) ∧
    (after (atXing 25 []) (step (atXing 25 []))).vbr ≠ (atXing 25 []).vbr := by decide

/-- A stream for the search and the body read. -/
def withStream (p : Phase) (bytes : List Byte) (endless : Bool) (pos : Nat) : State :=
  { busyAt p with stream := streamOfBytes bytes endless, pos := pos }

/-- SearchFindsFirst: a word at the last place of a stream, found by a search from before it. -/
theorem test_witness_search_found :
    let s := withStream .sync [0x00#8, 0xFF#8, 0xFE#8, 0x40#8, 0x40#8] false 0
    s.io.headD false = false ∧ s.pos ≤ 1 ∧ GoodAt s 0#32 1 ∧ ∀ q, s.pos ≤ q → q < 1 → ¬ GoodAt s 0#32 q := by
  refine ⟨rfl, by decide, ⟨?_, .inl ⟨rfl, by decide⟩⟩, ?_⟩
  · rintro e ⟨rfl⟩
    decide
  · intro q _ hq
    obtain rfl : q = 0 := by omega
    rintro ⟨-, ⟨-, h⟩ | ⟨h, -⟩⟩
    · exact absurd h (by decide)
    · cases h
/-- SearchFindsFirst: no word, at the end of a stream and on an endless one. -/
theorem test_witness_search_none :
    (let s := withStream .sync [0x00#8, 0xFF#8, 0xFE#8] false 0;
      s.stream.len = some 3 ∧ ∀ p, s.pos ≤ p → ¬ GoodAt s 0#32 p) ∧
    (let s := withStream .sync [] true 0;
      s.stream.len = none ∧ ∀ p, s.pos ≤ p → ¬ GoodAt s 0#32 p) ∧
    (let s := { busyAt .sync with io := [true] };
      s.io.headD false = true) := by
  refine ⟨⟨rfl, ?_⟩, ⟨rfl, ?_⟩, rfl⟩
  · rintro p - ⟨h, -⟩
    have := h 3 rfl
    omega
  · rintro p - ⟨-, ⟨-, h⟩ | ⟨h, -⟩⟩
    · exact absurd h (show
        ¬ wordOfBytes unlistedByte unlistedByte unlistedByte unlistedByte &&& 0xFFE00000#32 = 0xFFE00000#32 from by decide)
    · cases h
/-- BodyReadResult: exactly enough bytes, one too few, and a failing source. -/
theorem test_witness_body :
    let s := fun n io => { withStream .body (List.replicate n 0x11#8) false 0 with
      geo := { Geometry.blank with frameSize := some 28 }, io := io }
    (s 28 []).stream.len = some 28 ∧ (s 27 []).stream.len = some 27 ∧ 28 ≤ (s 28 []).par.frameBufCap ∧
    (s 28 [true]).io.headD false = true ∧ goesOn (step (s 28 [])) = true ∧ goesOn (step (s 27 [])) = true := by
  decide
/-- ValidateAndLock: the first frame, the trivial check, and under a lock the end of the stream, a match, one and three bytes
left, another word. -/
theorem test_witness_validate :
    let s := fun bytes check => { withStream .validate bytes false 0 with
      h := some 0xFFFF40C0#32, syncMode := .strictSync, lock := some 0xFFFF00C0#32
      par := { Config.defaultParams with strictValidate := check } }
    let phaseOf := fun bytes check => (after (s bytes check) (step (s bytes check))).phase
    let histOf := fun bytes => (after (s bytes .lookahead) (step (s bytes .lookahead))).hist
    (busyAt .validate).syncMode = .initialSync ∧ phaseOf [] .lookahead = .crcw ∧
    phaseOf [0xFF#8, 0xFF#8, 0x50#8, 0xC0#8] .lookahead = .crcw ∧
    phaseOf [0xFF#8, 0xFF#8, 0x44#8, 0xC0#8] .trivial = .crcw ∧
    histOf [0xFF#8] = [.rdPeekSync .short, .strictSyncMismatch, .rdUnread] ∧
    histOf [0xFF#8, 0xFF#8, 0x50#8] = [.rdPeekSync .short, .strictSyncMismatch, .rdUnread] ∧
    histOf [0xFF#8, 0xFF#8, 0x44#8, 0xC0#8] = [.rdPeekSync .noMatch, .strictSyncMismatch, .rdUnread] := by
  decide
/-- ValidateAndLock: a rejected candidate of 28 bytes and its header, read up to offset 40: the search goes on at offset 12,
4 bytes after the candidate's first. -/
theorem test_unread :
    (rdUnread { State.reset with pos := 40, fb := List.replicate 28 0#8 }).pos = 12 := by decide
/-- LockLaw: a lock with the sync bits and a word that matches it; a mask that strips the per-frame-variable fields (R6's)
and two headers that differ in bitrate index and padding only (spec/40_sync.md R162, spec/95_test_vectors.md V3). -/
theorem test_witness_lock :
    let mask := Config.defaultParams.lockMask
    (0xFFFF00C0#32 &&& 0xFFE00000#32 = 0xFFE00000#32) ∧ syncPred mask .strictSync 0xFFFF00C0#32 0xFFFF52FC#32 = true ∧
    mask.getLsbD 31 = true ∧ (0xFFFF40C0#32 : Word).getLsbD 31 = true ∧
    (∀ b, FrameVariable b → mask.getLsbD b = false) ∧
    (∀ b, b < 32 → ¬ FrameVariable b → (0xFFFF40C0#32 : Word).getLsbD b = (0xFFFF52C0#32 : Word).getLsbD b) := by
  refine ⟨by decide, by decide, by decide, by decide, ?_, ?_⟩
  · intro b hb
    have key : ∀ b, b < 16 → (12 ≤ b ∧ b ≤ 15) ∨ b = 9 ∨ (4 ≤ b ∧ b ≤ 5) ∨ b = 3 ∨ b = 2 →
        Config.defaultParams.lockMask.getLsbD b = false := by decide
    unfold FrameVariable at hb
    exact key b (by omega) hb
  · unfold FrameVariable
    decide
/-- SyncModeMachine: the locking step, the reset step and a step of neither. -/
theorem test_witness_sync_mode :
    let s := { busyAt .validate with h := some 0xFFFF40C0#32 }
    let r := { State.reset with
      top := .halted, syncMode := .strictSync, lock := some 0xFFFF00C0#32, host := [.reset] }
    (after s (step s)).syncMode = .strictSync ∧ (after s (step s)).lock = some 0xFFFF00C0#32 ∧
    (after r (step r)).syncMode = .initialSync ∧ goesOn (step State.reset) = true := by decide
/-- ConstructResult: the joint-stereo bound at subbands 3 and 4. -/
theorem test_witness_construct :
    let s := { busyAt .construct with
      hdr := { HeaderRegs.blank with mode := some .jointStereo }
      geo := { Geometry.blank with bound := some 4, subbandCount := some 32 } }
    s.hdr.mode = some .jointStereo ∧ s.geo.bound = some 4 ∧ s.geo.subbandCount = some 32 ∧
    (after s (step s)).sb[3].variant = some .stereo ∧ (after s (step s)).sb[4].variant = some .isx := by
  decide
/-- FieldLoopsPassOn: an `ISX` subband that is not signalled, and the ends of both loops. -/
theorem test_witness_loops :
    let s := withEntry .scf (entry .isx (some 0#4) none)
    let e := fun p => { withEntry p (entry .isx (some 0#4) none) with sbi := 32 }
    s.sbi < 32 ∧ allocFor .isx s.chan (entry .isx (some 0#4) none) = some 0#4 ∧
    (after s (step s)).chan = .ch2 ∧ (after (e .alloc) (step (e .alloc))).phase = .scf ∧
    (after (e .scf) (step (e .scf))).phase = .gate := by decide
/-- GateResult: a mismatch, a sample field that just fits, one bit too many. -/
theorem test_witness_gate :
    let s := fun bits att => { busyAt .gate with
      geo := { Geometry.blank with subbandCount := some 32 }, sb := silentMono.setIfInBounds 31 (entry .mono (some 3#4) none)
      fb := List.replicate 6 0#8, bitpos := bits, crcAttached := att, crcAcc := some 1#16, crcField := some 2#16 }
    (∀ i (hi : i < 32), (s 0 true).sb[i].variant ≠ none ∧ (s 0 true).sb[i].alloc1 ≠ none ∧
      ((s 0 true).sb[i].variant = some .stereo → (s 0 true).sb[i].alloc2 ≠ none)) ∧
    askedBits (s 0 false).sb = 4 ∧
    (after (s 0 true) (step (s 0 true))).gateOk = some false ∧
    (after (s 0 false) (step (s 0 false))).phase = .samples ∧
    (after (s 1 false) (step (s 1 false))).last = .exc .frameOverrun := by decide
/-- EndOfRepetition: repetition 10 goes on, repetition 11 is the last. FrameDoneResult. -/
theorem test_witness_repetition :
    let s := fun r => { withEntry .samples (entry .stereo none none) with sbi := 32, rep := r }
    (after (s 10) (step (s 10))).rep = 11 ∧ (after (s 10) (step (s 10))).phase = .samples ∧
    (after (s 11) (step (s 11))).phase = .done ∧
    (after (s 11) (step (s 11))).hist = [.skFlush .sk1, .skFlush .sk2] ∧
    (after (busyAt .done) (step (busyAt .done))).last = .frameDone := by decide
/-- PhaseOrder, FaultsSticky, RunningCommandKeeps: a step of each kind: a transfer, one that stays, one that ends the
command. -/
theorem test_witness_busy :
    let a := withEntry .alloc (entry .stereo none none)
    let stay := { a with fb := [0x10#8] }
    (after (busyAt .sync) (step (busyAt .sync))).phase = .sync ∧ (after (busyAt .sync) (step (busyAt .sync))).top = .halted ∧
    ((after stay (step stay)).phase = .alloc ∧ (after stay (step stay)).top = .busy) ∧
    (after { a with sbi := 32 } (step { a with sbi := 32 })).phase = .scf ∧
    (after { busyAt .sync with faults := 0x08#8 } (step { busyAt .sync with faults := 0x08#8 })).faults = 0x0A#8 := by
  decide

/-- A command that searches an endless stream of zeros: the invariant holds, and the step never answers. -/
theorem test_witness_inv_endless :
    Inv (withStream .sync [] true 0) ∧ step (withStream .sync [] true 0) = .fault .syncNeverAnswers :=
  ⟨{ params := defaultParams_ok
     memory := rfl
     lock := rfl
     sbi := by decide
     rep := by decide
     faults := by decide
     toc := by intro b h; cases h
     crc := ⟨rfl, rfl⟩
     quiet := fun h => absurd rfl h
     phase := fun _ => ⟨rfl, rfl⟩ }, rfl⟩

/-- A command that searches an empty stream: the invariant and the counts hold, and the step ends the command with an
exception. -/
theorem test_witness_inv_ended :
    Inv (withStream .sync [] false 0) ∧ SinkCounts .sk1 (withStream .sync [] false 0) ∧
      (after (withStream .sync [] false 0) (step (withStream .sync [] false 0))).last = .exc .lostSync :=
  ⟨{ params := defaultParams_ok
     memory := rfl
     lock := rfl
     sbi := by decide
     rep := by decide
     faults := by decide
     toc := by intro b h; cases h
     crc := ⟨rfl, rfl⟩
     quiet := fun h => absurd rfl h
     phase := fun _ => ⟨rfl, rfl⟩ }, ⟨rfl, rfl⟩, by decide⟩

/-- Program P1 in its last repetition: every subband has been sent, header `0xFFFF40C0`. -/
def p1Samples : State :=
  { busyAt .samples with
    syncMode := .strictSync, lock := some 0xFFFF00C0#32, first := false, h := some 0xFFFF40C0#32
    hdr := headerRegsOf .mpeg1 .one (headerFieldsOf 0xFFFF40C0#32).tail
    geo := geometryOf Config.defaultParams .mpeg1 .one (headerFieldsOf 0xFFFF40C0#32).tail
    fb := List.replicate 132 0#8, bitpos := 128, gateOk := some true, sb := silentMono, sbi := 32, rep := 11
    hist := List.replicate 384 (.skInput .sk1 0 (.number 0)) ++ List.replicate 11 (.skFlush .sk1) }

/-- Every entry of P1's register file. -/
theorem p1_entry (i : Nat) (hi : i < 32) : p1Samples.sb[i] = entry .mono (some 0#4) none := by
  show silentMono[i] = _
  exact Vector.getElem_replicate ..

/-- StepKeepsInvariant, InvariantStatesAreSafe, SinkEventsCounted: a state in the middle of a frame. -/
theorem test_witness_inv_frame :
    Inv p1Samples ∧ SinkCounts .sk1 p1Samples ∧ SinkCounts .sk2 p1Samples ∧
      (after p1Samples (step p1Samples)).phase = .done := by
  refine ⟨{ params := defaultParams_ok
            memory := rfl
            lock := ⟨0xFFFF00C0#32, rfl, by decide, by decide⟩
            sbi := by decide
            rep := by decide
            faults := by decide
            toc := by intro b h; cases h
            crc := ⟨rfl, rfl⟩
            quiet := fun h => absurd rfl h
            phase := fun _ => ?_ }, ?_, ?_, by decide⟩
  · refine ⟨⟨0xFFFF40C0#32, rfl, by decide⟩,
      ⟨⟨0xFFFF40C0#32, .mpeg1, .one, rfl, by decide, by decide, by decide, by decide, by decide, rfl, rfl⟩,
        by decide +kernel, by decide +kernel⟩, by decide,
      ⟨rfl, rfl, .singleChannel, 0, by decide, by decide, fun i hi => by rw [p1_entry i hi]; rfl⟩,
      fun i hi => by rw [p1_entry i hi]; rfl, fun i hi => by rw [p1_entry i hi]; rfl,
      by decide, true, rfl, ⟨fun h => absurd h (by decide), fun _ => ⟨0, 0, by decide, by decide, by decide +kernel⟩⟩⟩
  · intro m hm
    obtain rfl : m = .singleChannel := by
      have : (some Mode.singleChannel : Option Mode) = some m := by rw [← hm]; decide
      cases this
      rfl
    decide +kernel
  · intro m hm
    obtain rfl : m = .singleChannel := by
      have : (some Mode.singleChannel : Option Mode) = some m := by rw [← hm]; decide
      cases this
      rfl
    decide +kernel

/-- P1 with its last repetition flushed. -/
def p1Done : State :=
  { p1Samples with
    phase := .done, rep := 12
    hist := List.replicate 384 (.skInput .sk1 0 (.number 0)) ++ List.replicate 12 (.skFlush .sk1) }

/-- SinkEventsCounted, StepKeepsInvariant: a state whose step ends the command `FrameDone`. -/
theorem test_witness_inv_done :
    Inv p1Done ∧ SinkCounts .sk1 p1Done ∧ (after p1Done (step p1Done)).last = .frameDone ∧
      (after p1Done (step p1Done)).top = .idle := by
  refine ⟨{ params := defaultParams_ok
            memory := rfl
            lock := ⟨0xFFFF00C0#32, rfl, by decide, by decide⟩
            sbi := by decide
            rep := by decide
            faults := by decide
            toc := by intro b h; cases h
            crc := ⟨rfl, rfl⟩
            quiet := fun h => absurd rfl h
            phase := fun _ => ?_ }, ?_, by decide, by decide⟩
  · exact ⟨⟨0xFFFF40C0#32, rfl, by decide⟩,
      ⟨⟨0xFFFF40C0#32, .mpeg1, .one, rfl, by decide, by decide, by decide, by decide, by decide, rfl, rfl⟩,
        by decide +kernel, by decide +kernel⟩, by decide,
      ⟨rfl, rfl, .singleChannel, 0, by decide, by decide, fun i hi => congrArg SubbandRegs.variant (p1_entry i hi)⟩, rfl⟩
  · intro m hm
    obtain rfl : m = .singleChannel := by
      have : (some Mode.singleChannel : Option Mode) = some m := by rw [← hm]; decide
      cases this
      rfl
    decide +kernel

end Sys2Proof.Tests
end

section
/-! PROOFS. Every step keeps the invariant. The registers that no phase speaks of are kept apart from what each phase
guarantees (`RegsInv`); every phase then has one lemma, which cites what a step of that phase can do. -/

namespace Sys2Proof.Machine

open Sys2Proof

/-! ### The registers' share of the invariant -/

/-- What the invariant asks of the registers whatever the block does. -/
structure RegsInv (s : State) : Prop where
  params : ParamsOk s.par
  memory : memWf s.stream.cells = true
  lock : LockInv s
  sbi : s.sbi ≤ 32
  rep : s.rep ≤ 12
  faults : s.faults.getLsbD 0 = false
  toc : ∀ b, s.vbr.toc = some b → b.length = 100
  crc : s.crcAttached = s.crcAcc.isSome ∧ s.crcAttached = s.crcField.isSome

/-- The registers' share of the invariant. -/
theorem Inv.regs {s : State} (hi : Inv s) : RegsInv s := { hi with }

/-- The invariant of a running command. -/
theorem RegsInv.running {s : State} (hr : RegsInv s) (ht : s.top = .busy) (hp : PhaseInv s) : Inv s :=
  { hr with quiet := fun h => absurd ht h, phase := fun _ => hp }

/-- The invariant of a running command whose phase is known. -/
theorem RegsInv.runningIn {s : State} {p : Phase} (hr : RegsInv s) (ht : s.top = .busy) (hp : s.phase = p)
    (h : PhaseInv { s with phase := p }) : Inv s := by
  subst hp
  exact hr.running ht h

/-- The invariant between commands. -/
theorem RegsInv.stopped {s : State} (hr : RegsInv s) (ht : s.top ≠ .busy) (hq : s.fb = [] ∧ s.sb = blankSubbands) :
    Inv s :=
  { hr with quiet := fun _ => hq, phase := fun h => absurd h ht }

/-- An exception ends the command (spec/60_exceptions.md R371). -/
theorem raise_not_busy (e : Exc) (s : State) : (raise e s).top ≠ .busy := excTop_ne_busy e

/-- An exception leaves the invariant, whatever the phase (spec/60_exceptions.md R371). -/
theorem RegsInv.raised {s : State} {e : Exc} (hr : RegsInv s) : Inv (raise e s) := by
  have hfaults := (addFault_bit0 e s.faults).trans hr.faults
  rw [raise_eq]
  exact RegsInv.stopped { hr with faults := hfaults } (raise_not_busy e s) ⟨rfl, rfl⟩

/-! ### Host actions -/

/-- The registers after reset, with R6's parameters (spec/10_state.md R45). -/
theorem reset_regs : RegsInv State.reset where
  params := defaultParams_ok
  memory := reset_memWf
  lock := rfl
  sbi := Nat.zero_le _
  rep := Nat.zero_le _
  faults := by decide
  toc := fun _ h => nomatch h
  crc := ⟨rfl, rfl⟩

/-- `RESET` leaves the invariant (spec/46_frame_loop_host.md R341). -/
theorem resetBlock_inv {s : State} (hr : RegsInv s) : Inv (resetBlock s) :=
  RegsInv.stopped { reset_regs with params := hr.params, memory := hr.memory } (fun h => nomatch h) ⟨rfl, rfl⟩

/-- A command begins at `P_SYNC` with the frame-scoped registers at their reset values
(spec/46_frame_loop_host.md R343). -/
theorem startFrame_inv {s : State} (hr : RegsInv s) : Inv (startFrame s) :=
  RegsInv.running { hr with sbi := Nat.zero_le _, rep := Nat.zero_le _, crc := ⟨rfl, rfl⟩ } rfl ⟨rfl, rfl⟩

/-- Every host action between commands keeps the invariant. -/
theorem hostAction_inv (a : HostAction) {s : State} (hi : Inv s) (ht : s.top ≠ .busy) : Inv (hostAction a s) := by
  have hr := hi.regs
  have hq := hi.quiet ht
  have refused : Inv (refuseHalted s) := RegsInv.stopped { hr with } ht hq
  cases a with
  | reset => exact resetBlock_inv hr
  | setChannels c =>
    simp only [hostAction, setChannels]
    split
    · exact RegsInv.stopped { hr with } ht hq
    · exact refused
  | decodeFrame =>
    simp only [hostAction, decodeFrame]
    split
    · exact startFrame_inv hr
    · exact refused
  | attach bytes endless pos =>
    exact RegsInv.stopped { hr with memory := streamOfBytes_wf bytes endless } ht hq
  | moveReader pos => exact RegsInv.stopped { hr with } ht hq

/-- While no command runs the invariant is kept. -/
theorem hostStep_inv {s : State} (hi : Inv s) (ht : s.top ≠ .busy) : Inv (hostStep s) := by
  unfold hostStep
  split
  · exact hi
  · exact hostAction_inv _ (RegsInv.stopped { hi.regs with } ht (hi.quiet ht)) ht

/-! ### The lock -/

/-- Under `INITIAL_SYNC` there is no lock (spec/10_state.md R25). -/
theorem LockInv.initial {s : State} (h : LockInv s) (hm : s.syncMode = .initialSync) : s.lock = none := by
  rwa [LockInv, hm] at h

/-- Under `STRICT_SYNC` there is a lock with the sync bits (spec/10_state.md R25, spec/40_sync.md R162). -/
theorem LockInv.strict {s : State} (h : LockInv s) (hm : s.syncMode = .strictSync) :
    ∃ l, s.lock = some l ∧ l &&& syncMask = syncMask := by
  rw [LockInv, hm] at h
  obtain ⟨l, hl, -, hsync⟩ := h
  exact ⟨l, hl, hsync⟩

/-- A word that agrees with a lock on the lock mask has the sync bits of that lock (spec/40_sync.md R164). -/
theorem sync_of_locked {p : Params} (hp : ParamsOk p) {w l : Word} (h : w &&& p.lockMask = l)
    (hl : l &&& syncMask = syncMask) : w &&& syncMask = syncMask := by
  rw [← h, BitVec.and_assoc, hp.syncLocked] at hl
  exact hl

/-! ### The search, the header and the body -/

/-- A word the search answers is one `SyncPred` holds of (spec/20_memory.md R75, spec/40_sync.md R161, R162). -/
theorem rdSync_word {mode : SyncMode} {lock w : Word} {s s1 : State} (h : rdSync mode lock s = some (.word w, s1)) :
    syncPred s.par.lockMask mode lock w = true := by
  rcases rdSync_cases mode lock s with ⟨-, h1⟩ | ⟨-, p, w', hs, h1⟩ | ⟨-, -, h1⟩ | ⟨-, -, h1⟩ <;>
    rw [h1] at h <;> cases h
  exact (scanFrom_found hs).2.2.1

/-- The lock a search compares with (spec/40_sync.md R161, R162). -/
theorem withLock_next {s t : State} {k : Word → Result} (h : withLock s k = .next t) :
    (s.syncMode = .initialSync ∧ k 0#32 = .next t) ∨
      ∃ l, s.syncMode = .strictSync ∧ s.lock = some l ∧ k l = .next t := by
  unfold withLock at h
  split at h
  · exact .inl ⟨‹_›, h⟩
  · obtain ⟨l, hl, h⟩ := require_next.1 h
    exact .inr ⟨l, ‹_›, hl, h⟩

/-- A search that does not end the command hands on a word `SyncPred` holds of, with the lock where there is one. -/
theorem stepSync_pred {s t : State} (h : stepSync s = .next t) (hb : t.top = .busy) :
    ∃ w, t.h = some w ∧
      ((s.syncMode = .initialSync ∧ w &&& syncMask = syncMask) ∨
        ∃ l, s.syncMode = .strictSync ∧ s.lock = some l ∧ w &&& s.par.lockMask = l) := by
  rcases withLock_next h with ⟨hm, h⟩ | ⟨l, hm, hl, h⟩ <;> split at h <;> cases h
  · exact absurd hb (raise_not_busy _ _)
  · exact absurd hb (raise_not_busy _ _)
  · next heq => exact ⟨_, rfl, .inl ⟨hm, by simpa [hm, syncPred] using rdSync_word heq⟩⟩
  · exact absurd hb (raise_not_busy _ _)
  · exact absurd hb (raise_not_busy _ _)
  · next heq => exact ⟨_, rfl, .inr ⟨l, hm, hl, by simpa [hm, syncPred] using rdSync_word heq⟩⟩

/-- `P_SYNC` keeps the invariant (spec/40_sync.md R160, R163). -/
theorem step_sync_inv {s t : State} (hi : Inv s) (ht : s.top = .busy) (hp : s.phase = .sync)
    (h : step s = .next t) : Inv t := by
  have hr := hi.regs
  have hph := hi.phase ht
  rw [PhaseInv, hp] at hph
  obtain ⟨hfb, hatt⟩ := hph
  have hseq : stepSync s = .next t := by
    rw [step_sequencer ht (by simp [fetch, hp]), sequencer, hp] at h
    exact h
  rcases step_sync_next ht hp h with ⟨w, p, rfl⟩ | ⟨p, f, a, rfl⟩
  · obtain ⟨w', hw, hm⟩ := stepSync_pred hseq ht
    cases hw
    rcases hm with ⟨hm, hsync⟩ | ⟨l, hm, hl, hlock⟩
    · have nolock : ∀ l, s.lock ≠ some l := by simp [hr.lock.initial hm]
      exact RegsInv.running { hr with } ht ⟨hfb, hatt, fun l _ hl => absurd hl (nolock l), w, rfl, hsync⟩
    · obtain ⟨l', hl', hsync⟩ := hr.lock.strict hm
      obtain rfl := Option.some.inj (hl'.symm.trans hl)
      refine RegsInv.running { hr with } ht ⟨hfb, hatt, ?_, w, rfl, sync_of_locked hr.params hlock hsync⟩
      intro l w' hl2 hw'
      cases hw'
      exact hlock.trans (Option.some.inj (hl.symm.trans hl2))
  · exact RegsInv.raised { hr with }

/-- `P_HEADER` keeps the invariant (spec/41_header.md R190). -/
theorem step_header_inv {s t : State} (hi : Inv s) (ht : s.top = .busy) (hp : s.phase = .header)
    (h : step s = .next t) : Inv t := by
  have hr := hi.regs
  have hph := hi.phase ht
  rw [PhaseInv, hp] at hph
  obtain ⟨hfb, hatt, hml, -⟩ := hph
  obtain ⟨w, hw, hsync, rfl⟩ := step_header_next ht hp h
  rcases headerWord_cases (headerFieldsOf w) s with ⟨v, l, hv, hl, hrate, hbr⟩ | ⟨e, r, he, -⟩
  · rw [headerWord_good s hv hl hrate hbr]
    exact RegsInv.running { hr with } ht ⟨hfb, hatt, hml, w, v, l, hw, hsync, hv, hl, hrate, hbr, rfl, rfl⟩
  · rw [he]
    exact RegsInv.raised { hr with }

/-- `P_BODY` keeps the invariant (spec/40_sync.md R160, R167, spec/41_header.md R208). -/
theorem step_body_inv {s t : State} (hi : Inv s) (ht : s.top = .busy) (hp : s.phase = .body)
    (h : step s = .next t) : Inv t := by
  have hr := hi.regs
  have hph := hi.phase ht
  rw [PhaseInv, hp] at hph
  obtain ⟨-, hatt, hml, hk⟩ := hph
  obtain ⟨n, hn, ⟨-, rfl⟩ | ⟨-, -, rfl⟩ | ⟨-, -, rfl⟩⟩ := step_body_next ht hp h
  · exact RegsInv.raised { hr with }
  · exact RegsInv.running { hr with } ht
      ⟨hatt, hml, ⟨hk, hn.trans (congrArg some (streamBytes_length ..).symm), Nat.zero_le _⟩, rfl⟩
  · exact RegsInv.running { hr with } ht ⟨rfl, hatt⟩

/-! ### Validation, the lock and the checksum field -/

/-- Under `STRICT_SYNC` a candidate that matches the lock is locked (spec/40_sync.md R162, R170). -/
theorem locked_of_matches {s : State} (hl : LockInv s) (hm : s.syncMode = .strictSync) (hml : MatchesLock s)
    (hk : HeaderKnown s) : Locked s := by
  obtain ⟨w, -, -, hw, -⟩ := hk
  obtain ⟨l, hl, -⟩ := hl.strict hm
  exact ⟨w, hw, hl.trans (congrArg some (hml l w hl hw).symm)⟩

/-- `P_VALIDATE` keeps the invariant (spec/40_sync.md R168 to R170). -/
theorem step_validate_inv {s t : State} (hi : Inv s) (ht : s.top = .busy) (hp : s.phase = .validate)
    (h : step s = .next t) : Inv t := by
  have hr := hi.regs
  have hph := hi.phase ht
  rw [PhaseInv, hp] at hph
  obtain ⟨hatt, hml, hbody, hpos⟩ := hph
  rcases step_validate_next ht hp h with ⟨-, w, hw, rfl⟩ | ⟨hm, l, rfl, -⟩ | ⟨-, a, rfl⟩
  · have hsync : w &&& syncMask = syncMask := by
      obtain ⟨⟨w', -, -, hw', hs, -⟩, -⟩ := hbody
      cases hw.symm.trans hw'
      exact hs
    have hlock : LockInv { s with lock := some (w &&& s.par.lockMask), syncMode := .strictSync, phase := .crcw } :=
      ⟨_, rfl, lockMask_idem _ _, lockMask_sync hr.params hsync⟩
    exact RegsInv.running { hr with lock := hlock } ht ⟨hatt, ⟨w, hw, rfl⟩, hbody, hpos⟩
  · exact RegsInv.running { hr with } ht ⟨hatt, locked_of_matches hr.lock hm hml hbody.1, hbody, hpos⟩
  · exact RegsInv.running { hr with } ht ⟨rfl, hatt⟩

/-- `P_CRCW` keeps the invariant (spec/41_header.md R210). -/
theorem step_crcw_inv {s t : State} (hi : Inv s) (ht : s.top = .busy) (hp : s.phase = .crcw)
    (h : step s = .next t) : Inv t := by
  have hr := hi.regs
  have hph := hi.phase ht
  rw [PhaseInv, hp] at hph
  obtain ⟨hatt, hlock, ⟨hk, hfs, -⟩, hpos⟩ := hph
  rcases step_crcw_next ht hp h with ⟨hprot, rfl⟩ | ⟨hprot, rfl | ⟨w, -, hle, rfl⟩⟩
  · have hcrc : false = s.crcAcc.isSome ∧ false = s.crcField.isSome := hatt ▸ hr.crc
    exact RegsInv.running { hr with crc := hcrc } ht ⟨hlock, ⟨hk, hfs, by simp [hpos]⟩, hprot⟩
  · exact hr.raised
  · exact RegsInv.running { hr with crc := ⟨rfl, rfl⟩ } ht ⟨hlock, ⟨hk, hfs, hle⟩, hprot⟩

/-! ### The metadata probe -/

/-- A table of contents has 100 bytes (spec/10_state.md R27). -/
def TocOk (s : State) : Prop := ∀ b, s.vbr.toc = some b → b.length = 100

/-- An exception leaves the table alone (spec/60_exceptions.md R371). -/
theorem tocOk_raise {e : Exc} {s : State} : TocOk (raise e s) ↔ TocOk s := by simp only [TocOk, raise_vbr]

/-- A field of the "Xing" block keeps the table's length where its store does. -/
theorem xingField_toc {present : Bool} {width : Nat} {store : Nat → State → State} {b : Block}
    (hs : ∀ o u, TocOk u → TocOk (store o u)) (hb : TocOk (blockState b)) :
    TocOk (blockState (xingField present width store b)) := by
  cases b with
  | corrupt u => exact hb
  | going o u =>
    cases present with
    | false => exact hb
    | true =>
      by_cases hlen : u.fb.length < o + width
      · rw [xingField_short _ _ _ _ hlen]
        exact tocOk_raise.2 hb
      · rw [xingField_fits _ _ _ _ (by omega)]
        exact hs o u hb

/-- The table of contents that is stored has 100 bytes (spec/42_vbr.md R245). -/
theorem storeToc_toc (o : Nat) (u : State) : TocOk (storeToc o u) := by
  intro b hb
  cases hb
  simp

/-- The "Xing" block leaves a table of 100 bytes, or the one that was there (spec/42_vbr.md R245). -/
theorem xingFields_toc (x : Nat) {s : State} (hs : TocOk s) : TocOk (blockState (xingFields x s)) := by
  unfold xingFields needBytes
  split
  · exact tocOk_raise.2 hs
  · exact xingField_toc (store := storeScale) (fun _ _ h => h)
      (xingField_toc (fun o u _ => storeToc_toc o u)
        (xingField_toc (store := storeBytes) (fun _ _ h => h)
          (xingField_toc (store := storeFrames) (fun _ _ h => h) hs)))

/-- The "VBRI" block leaves the table alone (spec/42_vbr.md R249). -/
theorem vbriFields_toc {s : State} (hs : TocOk s) : TocOk (blockState (vbriFields s)) := by
  unfold vbriFields needBytes
  split
  · exact tocOk_raise.2 hs
  · dsimp only
    split
    · exact tocOk_raise.2 hs
    · exact hs

/-- The end of a block leaves the VBR registers of the block. -/
theorem endBlock_vbr {p : Probe} {b : Block} {t : State} (h : endBlock p b = .next t) :
    t.vbr = (blockState b).vbr := by
  cases b <;> cases h <;> rfl

/-- A metadata tag leaves a table of 100 bytes, or none, or the one that was there. -/
theorem exec_tag_toc {i : Instr} {s t : State} (hi : i = .xing ∨ i = .vbri) (h : exec i s = .next t)
    (hs : TocOk s) : TocOk t := by
  rcases hi with rfl | rfl
  · obtain ⟨v, -, h⟩ := require_next.1 h
    obtain ⟨m, -, h⟩ := require_next.1 h
    have := xingFields_toc (xingOffset v m) (s := { s with vbr := { s.vbr with isVbr := true } }) hs
    rwa [TocOk, ← endBlock_vbr h] at this
  · have := vbriFields_toc (s := { s with vbr := { VbrRegs.unknown with isVbr := true } }) (fun _ h => nomatch h)
    rwa [TocOk, ← endBlock_vbr h] at this

/-- The fetch in `P_VBR` reads a tag, finds nothing to read, or meets a register that holds "none". -/
theorem fetchProbe_cases (s : State) :
    (∃ i, (i = .xing ∨ i = .vbri) ∧ fetchProbe s = .element i s) ∨ fetchProbe s = .noElement ∨
      ∃ f, fetchProbe s = .stopped f := by
  have tag : ∀ x i, fetchTag x i s = .element i s ∨ fetchTag x i s = .noElement := by
    intro x i
    unfold fetchTag
    split_ifs <;> simp
  unfold fetchProbe
  split
  · cases s.hdr.version with
    | none => exact .inr (.inr ⟨_, rfl⟩)
    | some v =>
      cases s.hdr.mode with
      | none => exact .inr (.inr ⟨_, rfl⟩)
      | some m => exact (tag _ _).imp (fun h => ⟨_, .inl rfl, h⟩) .inl
  · exact (tag _ _).imp (fun h => ⟨_, .inr rfl, h⟩) .inl
  · exact .inr (.inl rfl)
  · exact .inr (.inl rfl)

/-- The probe's own steps leave the VBR registers. -/
theorem stepProbe_vbr {s t : State} (h : stepProbe s = .next t) : t.vbr = s.vbr := by
  unfold stepProbe at h
  split at h
  · cases h; split <;> rfl
  · cases h; rfl
  · cases h; rfl
  · obtain ⟨l, -, h⟩ := require_next.1 h
    cases h
    split
    · rfl
    · exact raise_vbr ..

/-- A step in `P_VBR` keeps the table's length. -/
theorem step_vbr_toc {s t : State} (ht : s.top = .busy) (hp : s.phase = .vbr) (h : step s = .next t)
    (hs : TocOk s) : TocOk t := by
  have hf : fetch s = fetchProbe s := by rw [fetch, hp]
  rw [step_busy ht, busyStep, hf] at h
  rcases fetchProbe_cases s with ⟨i, hi, h1⟩ | h1 | ⟨f, h1⟩ <;> rw [h1] at h
  · exact exec_tag_toc hi h hs
  · dsimp only at h
    rw [sequencer, hp] at h
    rwa [TocOk, stepProbe_vbr h]
  · cases h

/-- `P_VBR` keeps the invariant (spec/42_vbr.md R241, spec/46_frame_loop_host.md R343, R346). -/
theorem step_vbr_inv {s t : State} (hi : Inv s) (ht : s.top = .busy) (hp : s.phase = .vbr)
    (h : step s = .next t) : Inv t := by
  have hr := hi.regs
  have htoc : TocOk t := step_vbr_toc ht hp h hr.toc
  have hph := hi.phase ht
  rw [PhaseInv, hp] at hph
  rcases step_vbr_next ht hp h with
    ⟨-, r, -, ⟨p, rfl⟩ | rfl⟩ | ⟨-, -, rfl⟩ | ⟨p, rfl⟩ | ⟨-, hl, rfl⟩ | ⟨-, rfl⟩
  · exact RegsInv.runningIn { hr with toc := htoc } ht hp hph
  · exact RegsInv.raised { hr with toc := tocOk_raise.1 htoc }
  · exact RegsInv.runningIn { hr with } ht hp hph
  · exact RegsInv.runningIn { hr with } ht hp hph
  · obtain ⟨hlock, hbody, hprot⟩ := hph
    exact RegsInv.running { hr with } ht ⟨hlock, hbody, hprot, hl⟩
  · exact hr.raised

/-! ### Construction -/

/-- The registers of a Layer I header that `CONSTRUCT` and the loops read (spec/41_header.md R201, R204). -/
theorem HeaderKnown.layerOne {s : State} (hk : HeaderKnown s) (hl : s.hdr.layer = some .one) :
    ∃ m b, s.hdr.mode = some m ∧ s.geo.bound = some b ∧ s.geo.subbandCount = some 32 := by
  obtain ⟨w, v, l, -, -, -, -, -, -, hh, hg⟩ := hk
  rw [hh] at hl
  cases hl
  exact ⟨_, _, by rw [hh]; rfl, by rw [hg]; rfl, by rw [hg]; rfl⟩

/-- Only `JOINT_STEREO` reads the bound (spec/44_alloc_scf.md R271). -/
theorem variantOf_congr {m : Mode} {b b' : Nat} (h : m = .jointStereo → b = b') (i : Nat) :
    variantOf m b i = variantOf m b' i := by
  cases m <;> simp_all [variantOf]

/-- Every entry that `CONSTRUCT` makes (spec/44_alloc_scf.md R271). -/
theorem constructed_variant (m : Mode) (b i : Nat) (hi : i < 32) :
    (constructed m b 32)[i].variant = some (variantOf m b i) := by
  simp [constructed]

/-- `P_CONSTRUCT` keeps the invariant (spec/44_alloc_scf.md R270, R271). -/
theorem step_construct_inv {s t : State} (hi : Inv s) (ht : s.top = .busy) (hp : s.phase = .construct)
    (h : step s = .next t) : Inv t := by
  have hr := hi.regs
  have hph := hi.phase ht
  rw [PhaseInv, hp] at hph
  obtain ⟨hlock, hbody, hprot, hl⟩ := hph
  obtain ⟨m', b', hm', hb', hn'⟩ := hbody.1.layerOne hl
  obtain ⟨m, b, n, hm, hn, hb, rfl⟩ := step_construct_next ht hp h
  obtain rfl := Option.some.inj (hm.symm.trans hm')
  obtain rfl := Option.some.inj (hn.symm.trans hn')
  have hbound : m = .jointStereo → b = b' := fun hj => Option.some.inj ((hb hj).symm.trans hb')
  have hvar : ∀ i (hi : i < 32), (constructed m b 32)[i].variant = some (variantOf m b' i) := fun i hi =>
    (constructed_variant m b i hi).trans (congrArg some (variantOf_congr hbound i))
  exact RegsInv.running { hr with sbi := Nat.zero_le _ } ht
    ⟨hlock, hbody, hprot, ⟨hl, hn, m, b', hm, hb', hvar⟩, fun i _ hi => absurd hi (Nat.not_lt_zero i),
      fun hc => nomatch hc⟩

/-! ### The subband register file -/

/-- A fact about every entry after one of them is written: of the written one, and of the others as they were. -/
theorem entries_set {P : Nat → SubbandRegs → Prop} {sb : Vector SubbandRegs 32} {k : Nat} {e : SubbandRegs}
    (he : P k e) (h : ∀ (i : Nat) (hi : i < 32), i ≠ k → P i sb[i]) :
    ∀ (i : Nat) (hi : i < 32), P i (sb.setIfInBounds k e)[i] := by
  intro i hi
  rw [Vector.getElem_setIfInBounds]
  split
  · next hik => exact hik ▸ he
  · next hik => exact h i hi (Ne.symm hik)

/-- Writing an entry back changes nothing. -/
theorem setIfInBounds_self {sb : Vector SubbandRegs 32} {k : Nat} {e : SubbandRegs} (he : sb[k]? = some e) :
    sb.setIfInBounds k e = sb := by
  obtain ⟨hk, rfl⟩ := Vector.getElem?_eq_some_iff.1 he
  apply Vector.ext
  intro i hi
  rw [Vector.getElem_setIfInBounds]
  split
  · next hik => subst hik; rfl
  · rfl

/-- The file goes on being the one `CONSTRUCT` made while entries keep their variant. -/
theorem ConstructedFor.set {s t : State} {k : Nat} {e e' : SubbandRegs} (hc : ConstructedFor s)
    (he : s.sb[k]? = some e) (hv : e'.variant = e.variant) (hsb : t.sb = s.sb.setIfInBounds k e')
    (hhdr : t.hdr = s.hdr) (hgeo : t.geo = s.geo) : ConstructedFor t := by
  obtain ⟨hl, hn, m, b, hm, hb, hvar⟩ := hc
  obtain ⟨hk, rfl⟩ := Vector.getElem?_eq_some_iff.1 he
  refine ⟨hhdr ▸ hl, hgeo ▸ hn, m, b, hhdr ▸ hm, hgeo ▸ hb, ?_⟩
  rw [hsb]
  exact entries_set (P := fun i e => e.variant = some (variantOf m b i)) (hv.trans (hvar k hk))
    fun i hi _ => hvar i hi

/-! ### One slot of a field loop -/

/-- The channel of the slot after one of channel `c`, where `second` says that channel 2 has one
(spec/44_alloc_scf.md R272, R277, R280). -/
def slotChan (c : Chan) (second : Bool) : Chan := if c = .ch1 ∧ second = true then .ch2 else .ch1

/-- The subband of the slot after one of channel `c` of subband `i`. -/
def slotSbi (c : Chan) (second : Bool) (i : Nat) : Nat := if c = .ch1 ∧ second = true then i else i + 1

/-- Everything `nextSlot` does, by the next slot's place. -/
theorem nextSlot_slot (second : Bool) (s : State) :
    nextSlot second s = { s with chan := slotChan s.chan second, sbi := slotSbi s.chan second s.sbi } :=
  nextSlot_eq second s

/-- Only a `Stereo` subband has a second allocation and sample read (spec/30_encoding.md R120). -/
theorem secondAlloc_iff {v : Variant} : secondAlloc v = true ↔ v = .stereo := by
  cases v <;> decide

/-- Every subband but a `Mono` one has a second index (spec/30_encoding.md R120). -/
theorem secondScf_iff {v : Variant} : secondScf v = true ↔ v ≠ .mono := by
  cases v <;> decide

/-- Channel 1 is governed by the first code, whatever the variant (spec/10_state.md R38). -/
theorem allocFor_ch1 (v : Variant) (e : SubbandRegs) : allocFor v .ch1 e = e.alloc1 := by
  cases v <;> rfl

/-- The next slot is channel 2 of the same subband, or channel 1 of the next one. -/
theorem slot_cases (c : Chan) (second : Bool) (i : Nat) :
    (c = .ch1 ∧ second = true ∧ slotChan c second = .ch2 ∧ slotSbi c second i = i) ∨
      ((c = .ch1 → second = false) ∧ slotChan c second = .ch1 ∧ slotSbi c second i = i + 1) := by
  cases c <;> cases second <;> simp [slotChan, slotSbi]

/-- The next slot lies inside the file or just past it. -/
theorem slotSbi_le {c : Chan} {second : Bool} {i n : Nat} (h : i < n) : slotSbi c second i ≤ n := by
  rcases slot_cases c second i with ⟨-, -, -, hs⟩ | ⟨-, -, hs⟩ <;> omega

/-- Where a loop stands after a slot: the entry at `SBI` is `e'`, and the next slot is next. -/
structure SlotDone (second : Bool) (e' : SubbandRegs) (s t : State) : Prop where
  sb : t.sb = s.sb.setIfInBounds s.sbi e'
  chan : t.chan = slotChan s.chan second
  sbi : t.sbi = slotSbi s.chan second s.sbi

/-- The fetch in a loop reads the entry at `SBI`. -/
theorem fetchSubband_eq {s : State} {e : SubbandRegs} {v : Variant} {k : SubbandRegs → Variant → Fetched}
    (he : s.sb[s.sbi]? = some e) (hv : e.variant = some v) : fetchSubband s k = k e v := by
  simp only [fetchSubband, he, hv, fetchReg_some]

/-! ### Allocation codes -/

/-- A stored code that is not the reserved one (spec/10_state.md R38). -/
theorem codeOk_iff {o : Option (BitVec 4)} : codeOk o = true ↔ ∃ a, o = some a ∧ a ≠ 15#4 := by
  cases o <;> simp [codeOk]

/-- A stored code keeps the variant. -/
theorem putAlloc_variant (c : Chan) (a : BitVec 4) (e : SubbandRegs) :
    (putAlloc c a e).variant = e.variant := by cases c <;> rfl

/-- A step of the allocation loop: the end of the loop, an exception, or one slot done with a legal code
(spec/44_alloc_scf.md R270 to R274). -/
theorem step_alloc_slot {s t : State} (ht : s.top = .busy) (hp : s.phase = .alloc)
    (hn : s.geo.subbandCount = some 32) (hcrc : s.crcAttached = s.crcAcc.isSome) (h : step s = .next t) :
    (32 ≤ s.sbi ∧ t = { s with phase := .scf, sbi := 0, chan := .ch1 }) ∨
    (∃ x b l, t = raise x { s with bitpos := b, hist := l }) ∨
    ∃ e v a l, s.sb[s.sbi]? = some e ∧ e.variant = some v ∧ a ≠ 15#4 ∧ s.bitpos + 4 ≤ 8 * s.fb.length ∧
      t = { s with
        bitpos := s.bitpos + 4, hist := l
        crcAcc := s.crcAcc.map (crcAdd s.par.crc · a.toNat 4)
        sb := s.sb.setIfInBounds s.sbi (putAlloc s.chan a e), chan := slotChan s.chan (secondAlloc v)
        sbi := slotSbi s.chan (secondAlloc v) s.sbi } := by
  by_cases hl : s.sbi < 32
  · have hf : fetch s = fetchBits .a4 s := by simp [fetch, hp, fetchAlloc, hn, hl]
    rcases step_element_next ht hf h with ⟨-, rfl⟩ | ⟨i, hd, hle, h⟩
    · exact .inr (.inl ⟨_, s.bitpos, s.hist, rfl⟩)
    · cases hd
      rw [exec_alloc (decodeAlloc_code _)] at h
      split at h
      · cases h
        exact .inr (.inl ⟨_, _, _, rfl⟩)
      · next ha =>
        obtain ⟨e, he, h1⟩ := withSubband_next.1 h
        obtain ⟨v, hv, -⟩ := require_next.1 h1
        rw [storeAlloc_eq he hv hcrc] at h
        cases h
        exact .inr (.inr ⟨e, v, _, _, he, hv, ha, hle, rfl⟩)
  · obtain ⟨n, hn', ⟨-, rfl⟩ | ⟨hlt, -⟩⟩ := step_alloc_next ht hp h
    · exact .inl ⟨by omega, rfl⟩
    · cases hn.symm.trans hn'
      exact absurd hlt hl

/-- Where the allocation loop stands after a legal code (spec/44_alloc_scf.md R272). -/
theorem AllocProgress.stored {s t : State} {e : SubbandRegs} {v : Variant} {a : BitVec 4} (hpr : AllocProgress s)
    (he : s.sb[s.sbi]? = some e) (hv : e.variant = some v) (ha : a ≠ 15#4)
    (hdone : SlotDone (secondAlloc v) (putAlloc s.chan a e) s t) : AllocProgress t := by
  obtain ⟨hread, hsecond⟩ := hpr
  obtain ⟨hk, rfl⟩ := Vector.getElem?_eq_some_iff.1 he
  have hcode : codeOk (some a) = true := codeOk_iff.2 ⟨a, rfl, ha⟩
  unfold AllocProgress
  rw [hdone.sb, hdone.chan, hdone.sbi]
  rcases slot_cases s.chan (secondAlloc v) s.sbi with ⟨hc1, hv2, hc, hi⟩ | ⟨hlast, hc, hi⟩ <;> rw [hc, hi]
  · refine ⟨entries_set (P := fun i e => i < s.sbi → allocRead e = true) (fun h => absurd h (lt_irrefl _))
      fun i hi _ => hread i hi, fun _ => ⟨hk, ?_⟩⟩
    rw [secondAlloc_iff.1 hv2] at hv
    simp [putAlloc, hc1, hv, hcode]
  · refine ⟨entries_set (P := fun i e => i < s.sbi + 1 → allocRead e = true) (fun _ => ?_)
      fun i hi hne hlt => hread i hi (by omega), fun h => nomatch h⟩
    cases hc1 : s.chan with
    | ch1 =>
      have hone := hlast hc1
      cases v with
      | stereo => cases hone
      | mono => simp [allocRead, putAlloc, hv, hcode]
      | isx => simp [allocRead, putAlloc, hv, hcode]
    | ch2 =>
      obtain ⟨_, hst, h1⟩ := hsecond hc1
      simp [allocRead, putAlloc, hst, h1, hcode]

/-- `P_ALLOC` keeps the invariant (spec/44_alloc_scf.md R270 to R274). -/
theorem step_alloc_inv {s t : State} (hi : Inv s) (ht : s.top = .busy) (hp : s.phase = .alloc)
    (h : step s = .next t) : Inv t := by
  have hr := hi.regs
  have hph := hi.phase ht
  rw [PhaseInv, hp] at hph
  obtain ⟨hlock, ⟨hk, hfs, hpos⟩, hprot, hcon, hpr⟩ := hph
  rcases step_alloc_slot ht hp hcon.2.1 hr.crc.1 h with
    ⟨hend, rfl⟩ | ⟨x, b, l, rfl⟩ | ⟨e, v, a, l, he, hv, ha, hle, rfl⟩
  · exact RegsInv.running { hr with sbi := Nat.zero_le _ } ht
      ⟨hlock, ⟨hk, hfs, hpos⟩, hprot, hcon, fun i hi => hpr.1 i hi (by omega),
        fun i _ hi => absurd hi (Nat.not_lt_zero i), fun hc => nomatch hc⟩
  · exact RegsInv.raised { hr with }
  · have hcrc : s.crcAttached = (s.crcAcc.map (crcAdd s.par.crc · a.toNat 4)).isSome := by
      rw [Option.isSome_map, ← hr.crc.1]
    have hlt : s.sbi < 32 := (Vector.getElem?_eq_some_iff.1 he).1
    exact RegsInv.runningIn { hr with crc := ⟨hcrc, hr.crc.2⟩, sbi := slotSbi_le hlt } ht hp
      ⟨hlock, ⟨hk, hfs, hle⟩, hprot, hcon.set he (putAlloc_variant ..) rfl rfl rfl,
        hpr.stored he hv ha ⟨rfl, rfl, rfl⟩⟩

/-! ### The slot of a later loop -/

/-- Whether an entry's codes have been read depends on its variant and its codes. -/
theorem allocRead_congr {e e' : SubbandRegs} (hv : e'.variant = e.variant) (h1 : e'.alloc1 = e.alloc1)
    (h2 : e'.alloc2 = e.alloc2) : allocRead e' = allocRead e := by
  rw [allocRead, allocRead, hv, h1, h2]

/-- The code that governs a channel has been read (spec/44_alloc_scf.md R272). -/
theorem allocFor_of_read {e : SubbandRegs} {v : Variant} (h : allocRead e = true) (hv : e.variant = some v) (c : Chan) :
    ∃ a, allocFor v c e = some a ∧ a ≠ 15#4 := by
  rw [allocRead, hv] at h
  cases v with
  | mono => exact codeOk_iff.1 h
  | isx => exact codeOk_iff.1 h
  | stereo =>
    obtain ⟨h1, h2⟩ := Bool.and_eq_true_iff.1 h
    cases c with
    | ch1 => exact codeOk_iff.1 h1
    | ch2 => exact codeOk_iff.1 h2

/-- The slot a later loop stands at: the entry at `SBI`, its variant, and the code that governs the channel; the
codes have been read. -/
structure SlotAt (s : State) (e : SubbandRegs) (v : Variant) (a : BitVec 4) : Prop where
  entry : s.sb[s.sbi]? = some e
  variant : e.variant = some v
  read : allocRead e = true
  code : allocFor v s.chan e = some a
  legal : a ≠ 15#4

/-- After the allocation phase every slot of the file is known. -/
theorem slotAt_of_allAlloc {s : State} (hcon : ConstructedFor s) (hall : AllAlloc s) (hlt : s.sbi < 32) :
    ∃ v a, SlotAt s s.sb[s.sbi] v a := by
  obtain ⟨-, -, m, b, -, -, hvar⟩ := hcon
  obtain ⟨a, ha, h15⟩ := allocFor_of_read (hall _ hlt) (hvar _ hlt) s.chan
  exact ⟨_, a, Vector.getElem?_eq_getElem hlt, hvar _ hlt, hall _ hlt, ha, h15⟩

/-- A slot stands inside the file. -/
theorem SlotAt.lt {s : State} {e : SubbandRegs} {v : Variant} {a : BitVec 4} (hat : SlotAt s e v a) : s.sbi < 32 :=
  (Vector.getElem?_eq_some_iff.1 hat.entry).1

/-- A slot that changes no entry's variant and codes keeps every code read. -/
theorem AllAlloc.set {s t : State} {k : Nat} {e e' : SubbandRegs} (hall : AllAlloc s) (he : s.sb[k]? = some e)
    (hv : e'.variant = e.variant) (h1 : e'.alloc1 = e.alloc1) (h2 : e'.alloc2 = e.alloc2)
    (hsb : t.sb = s.sb.setIfInBounds k e') : AllAlloc t := by
  obtain ⟨hk, rfl⟩ := Vector.getElem?_eq_some_iff.1 he
  unfold AllAlloc
  rw [hsb]
  exact entries_set (P := fun _ e => allocRead e = true) ((allocRead_congr hv h1 h2).trans (hall k hk))
    fun i hi _ => hall i hi

/-! ### Scale-factor indices -/

/-- What a slot of the scale-factor loop leaves in its entry: the index read, or nothing where the channel is silent
(spec/44_alloc_scf.md R280). -/
def ScfSlot (a : BitVec 4) (c : Chan) (e e' : SubbandRegs) : Prop :=
  (signalled a = false ∧ e' = e) ∨ ∃ x, e' = putScf c x e

/-- A slot of the scale-factor loop: an exception, or the slot done (spec/44_alloc_scf.md R280). -/
theorem step_scf_slot {s t : State} {e : SubbandRegs} {v : Variant} {a : BitVec 4} (ht : s.top = .busy)
    (hp : s.phase = .scf) (hn : s.geo.subbandCount = some 32) (hpos : s.bitpos ≤ 8 * s.fb.length)
    (hat : SlotAt s e v a) (h : step s = .next t) :
    t = raise .frameOverrun s ∨
    ∃ e' b l, ScfSlot a s.chan e e' ∧ b ≤ 8 * s.fb.length ∧
      t = { s with
        bitpos := b, hist := l, sb := s.sb.setIfInBounds s.sbi e'
        chan := slotChan s.chan (secondScf v), sbi := slotSbi s.chan (secondScf v) s.sbi } := by
  have hl := hat.lt
  obtain ⟨he, hv, -, ha, -⟩ := hat
  have hf : fetch s = if signalled a then fetchBits .s6 s else .noElement := by
    simp only [fetch, hp, fetchScf, hn, fetchReg_some, if_pos hl, fetchSubband_eq he hv, ha]
  cases hs : signalled a with
  | false =>
    rw [hs] at hf
    rw [step_sequencer ht hf, sequencer, hp] at h
    simp only [stepScf, hn, require_some, if_pos hl, withSubband_eq he, hv, nextSlot_slot] at h
    cases h
    exact .inr ⟨e, s.bitpos, s.hist, .inl ⟨hs, rfl⟩, hpos, by rw [setIfInBounds_self he]⟩
  | true =>
    rw [hs] at hf
    rcases step_element_next ht hf h with ⟨-, rfl⟩ | ⟨i, hd, hle, h⟩
    · exact .inl rfl
    · cases hd
      rw [exec_scf (decodeScf_index _)] at h
      obtain ⟨e1, he1, -⟩ := withSubband_next.1 h
      obtain rfl := Option.some.inj (he1.symm.trans he)
      rw [storeScf_eq he1 hv] at h
      cases h
      exact .inr ⟨_, _, _, .inr ⟨_, rfl⟩, hle, rfl⟩

/-- A slot keeps an entry's variant and allocation codes. -/
theorem ScfSlot.frame {a : BitVec 4} {c : Chan} {e e' : SubbandRegs} (h : ScfSlot a c e e') :
    e'.variant = e.variant ∧ e'.alloc1 = e.alloc1 ∧ e'.alloc2 = e.alloc2 ∧ (c = .ch2 → e'.scf1 = e.scf1) := by
  rcases h with ⟨-, rfl⟩ | ⟨x, rfl⟩
  · exact ⟨rfl, rfl, rfl, fun _ => rfl⟩
  · cases c <;> simp [putScf]

/-- After the slot of channel 1, its index is there where the channel is signalled. -/
theorem ScfSlot.present1 {a : BitVec 4} {e e' : SubbandRegs} (h : ScfSlot a .ch1 e e') :
    presentIf (some a) e'.scf1 = true := by
  rcases h with ⟨hs, rfl⟩ | ⟨x, rfl⟩
  · simp [presentIf, hs]
  · simp [presentIf, putScf]

/-- After the slot of channel 2, its index is there where the channel is signalled. -/
theorem ScfSlot.present2 {a : BitVec 4} {e e' : SubbandRegs} (h : ScfSlot a .ch2 e e') :
    presentIf (some a) e'.scf2 = true := by
  rcases h with ⟨hs, rfl⟩ | ⟨x, rfl⟩
  · simp [presentIf, hs]
  · simp [presentIf, putScf]

/-- Where the scale-factor loop stands after a slot (spec/44_alloc_scf.md R280). -/
theorem ScfProgress.stored {s t : State} {e e' : SubbandRegs} {v : Variant} {a : BitVec 4} (hpr : ScfProgress s)
    (hat : SlotAt s e v a) (hslot : ScfSlot a s.chan e e') (hdone : SlotDone (secondScf v) e' s t) :
    ScfProgress t := by
  obtain ⟨hread, hsecond⟩ := hpr
  obtain ⟨he, hv, -, ha, -⟩ := hat
  obtain ⟨hk, rfl⟩ := Vector.getElem?_eq_some_iff.1 he
  obtain ⟨hv', h1, h2, hs1⟩ := hslot.frame
  have first : s.chan = .ch1 → presentIf e'.alloc1 e'.scf1 = true := by
    intro hc1
    rw [hc1] at hslot ha
    rw [h1, ← allocFor_ch1 v, ha]
    exact hslot.present1
  unfold ScfProgress
  rw [hdone.sb, hdone.chan, hdone.sbi]
  rcases slot_cases s.chan (secondScf v) s.sbi with ⟨hc1, hv2, hc, hi⟩ | ⟨hlast, hc, hi⟩ <;> rw [hc, hi]
  · refine ⟨entries_set (P := fun i e => i < s.sbi → scfRead e = true) (fun h => absurd h (lt_irrefl _))
      fun i hi _ => hread i hi, fun _ => ⟨hk, ?_⟩⟩
    simp [hv', hv, secondScf_iff.1 hv2, first hc1]
  · refine ⟨entries_set (P := fun i e => i < s.sbi + 1 → scfRead e = true) (fun _ => ?_)
      fun i hi hne hlt => hread i hi (by omega), fun h => nomatch h⟩
    rw [scfRead, hv', hv]
    cases hc1 : s.chan with
    | ch1 =>
      have hone := hlast hc1
      cases v with
      | mono => exact first hc1
      | stereo => cases hone
      | isx => cases hone
    | ch2 =>
      obtain ⟨_, hst, hp1⟩ := hsecond hc1
      rw [hc1] at hslot ha
      rw [← h1, ← hs1 hc1] at hp1
      cases v with
      | mono => exact absurd hv hst
      | stereo =>
        have ha2 : e'.alloc2 = some a := h2.trans ha
        exact Bool.and_eq_true_iff.2 ⟨hp1, ha2 ▸ hslot.present2⟩
      | isx =>
        have ha1 : e'.alloc1 = some a := h1.trans ha
        exact Bool.and_eq_true_iff.2 ⟨hp1, ha1 ▸ hslot.present2⟩

/-- `P_SCF` keeps the invariant (spec/44_alloc_scf.md R270, R280). -/
theorem step_scf_inv {s t : State} (hi : Inv s) (ht : s.top = .busy) (hp : s.phase = .scf)
    (h : step s = .next t) : Inv t := by
  have hr := hi.regs
  have hph := hi.phase ht
  rw [PhaseInv, hp] at hph
  obtain ⟨hlock, ⟨hk, hfs, hpos⟩, hprot, hcon, hall, hpr⟩ := hph
  obtain ⟨n, hn, hend⟩ := step_scf_next ht hp h
  cases hcon.2.1.symm.trans hn
  rcases hend with ⟨hend, rfl⟩ | ⟨hlt, -⟩
  · exact RegsInv.running { hr with } ht
      ⟨hlock, ⟨hk, hfs, hpos⟩, hprot, hcon, hall, fun i hi => hpr.1 i hi (by omega)⟩
  · obtain ⟨v, a, hat⟩ := slotAt_of_allAlloc hcon hall hlt
    rcases step_scf_slot ht hp hn hpos hat h with rfl | ⟨e', b, l, hslot, hb, rfl⟩
    · exact hr.raised
    · obtain ⟨hv', h1, h2, -⟩ := hslot.frame
      exact RegsInv.runningIn { hr with sbi := slotSbi_le hlt } ht hp
        ⟨hlock, ⟨hk, hfs, hb⟩, hprot, hcon.set hat.entry hv' rfl rfl rfl, hall.set hat.entry hv' h1 h2 rfl,
          hpr.stored hat hslot ⟨rfl, rfl, rfl⟩⟩

/-! ### The gate -/

/-- The gate: closed by the checksum, open with a body that is long enough, or an exception
(spec/45_samples_sink.md R301, R318). -/
theorem step_gate_length {s t : State} (ht : s.top = .busy) (hp : s.phase = .gate)
    (hn : s.geo.subbandCount = some 32) (h : step s = .next t) :
    t = raise .frameOverrun { s with gateOk := some true } ∨
    ∃ g l, (g = true → ∃ w, totalBits s.sb 32 = some w ∧ s.bitpos + 12 * w ≤ 8 * s.fb.length) ∧
      t = { s with gateOk := some g, phase := .samples, rep := 0, sbi := 0, chan := .ch1, hist := l } := by
  rw [step_sequencer ht (by simp [fetch, hp])] at h
  simp only [sequencer, hp, stepGate] at h
  have opened : openGate s = .next t → t = raise .frameOverrun { s with gateOk := some true } ∨
      ∃ g l, (g = true → ∃ w, totalBits s.sb 32 = some w ∧ s.bitpos + 12 * w ≤ 8 * s.fb.length) ∧
        t = { s with gateOk := some g, phase := .samples, rep := 0, sbi := 0, chan := .ch1, hist := l } := by
    intro h
    rw [openGate, hn, require_some] at h
    obtain ⟨w, hw, h⟩ := require_next.1 h
    split at h <;> cases h
    · exact .inl rfl
    · exact .inr ⟨true, s.hist, fun _ => ⟨w, hw, by omega⟩, rfl⟩
  split at h
  · obtain ⟨acc, -, h⟩ := require_next.1 h
    obtain ⟨field, -, h⟩ := require_next.1 h
    split at h
    · exact opened h
    · cases h
      exact .inr ⟨false, _, fun h => (nomatch h), rfl⟩
  · exact opened h

/-- `P_GATE` keeps the invariant (spec/45_samples_sink.md R301, R318). -/
theorem step_gate_inv {s t : State} (hi : Inv s) (ht : s.top = .busy) (hp : s.phase = .gate)
    (h : step s = .next t) : Inv t := by
  have hr := hi.regs
  have hph := hi.phase ht
  rw [PhaseInv, hp] at hph
  obtain ⟨hlock, hbody, hprot, hcon, hall, hscf⟩ := hph
  rcases step_gate_length ht hp hcon.2.1 h with rfl | ⟨g, l, hlen, rfl⟩
  · exact RegsInv.raised { hr with }
  · refine RegsInv.running { hr with sbi := Nat.zero_le _, rep := Nat.zero_le _ } ht
      ⟨hlock, hbody, hprot, hcon, hall, hscf, Nat.zero_lt_succ _, g, rfl, fun hc => (nomatch hc), fun hg => ?_⟩
    obtain ⟨w, hw, hle⟩ := hlen hg
    exact ⟨w, 0, hw, rfl, hle⟩

/-! ### Bits of a repetition (spec/45_samples_sink.md R318) -/

/-- `W` reads the variants and the codes only. -/
theorem totalBits_set {sb : Vector SubbandRegs 32} {k : Nat} {e e' : SubbandRegs} (he : sb[k]? = some e)
    (hb : subbandBits e' = subbandBits e) (n : Nat) : totalBits (sb.setIfInBounds k e') n = totalBits sb n := by
  have hk : k < 32 := (Vector.getElem?_eq_some_iff.1 he).1
  induction n with
  | zero => rfl
  | succ n ih =>
    have entry : ((sb.setIfInBounds k e')[n]?).bind subbandBits = (sb[n]?).bind subbandBits := by
      by_cases hkn : k = n
      · subst hkn
        rw [sb_set_get e' he, he, Option.bind_some, Option.bind_some, hb]
      · rw [Vector.getElem?_setIfInBounds_ne hkn]
    rw [totalBits, totalBits, ih, entry]

/-- `W` over one subband more. -/
theorem totalBits_succ {sb : Vector SubbandRegs 32} {n p b : Nat} {e : SubbandRegs} (hp : totalBits sb n = some p)
    (he : sb[n]? = some e) (hb : subbandBits e = some b) : totalBits sb (n + 1) = some (p + b) := by
  simp only [totalBits, hp, he, Option.bind_some, hb]

/-- The bits of a subband depend on its variant and its codes. -/
theorem subbandBits_congr {e e' : SubbandRegs} (hv : e'.variant = e.variant) (h1 : e'.alloc1 = e.alloc1)
    (h2 : e'.alloc2 = e.alloc2) : subbandBits e' = subbandBits e := by
  rw [subbandBits, subbandBits, hv, h1, h2]

/-- Nothing of a subband has been read where its channel 1 is next. -/
theorem readInSubband_ch1 {s : State} (hc : s.chan = .ch1) : readInSubband s = 0 := by
  rw [readInSubband, hc]

/-- Channel 1's bits have been read where channel 2 is next. -/
theorem readInSubband_ch2 {s : State} {e : SubbandRegs} {a : BitVec 4} (hc : s.chan = .ch2)
    (he : s.sb[s.sbi]? = some e) (ha : e.alloc1 = some a) : readInSubband s = codeBits a := by
  rw [readInSubband, hc]
  simp only [he, Option.bind_some, ha, Option.map_some, Option.getD_some]

/-- A subband's last turn completes its bits: what was read in it before, and the code of the turn. -/
theorem subbandBits_last {s : State} {e : SubbandRegs} {v : Variant} {a : BitVec 4} (hat : SlotAt s e v a)
    (hst : s.chan = .ch2 → v = .stereo) (hlast : s.chan = .ch1 → secondAlloc v = false) :
    subbandBits e = some (readInSubband s + codeBits a) := by
  obtain ⟨he, hv, hread, ha, -⟩ := hat
  cases hc : s.chan with
  | ch1 =>
    have hone := hlast hc
    rw [hc, allocFor_ch1] at ha
    rw [readInSubband_ch1 hc, Nat.zero_add]
    cases v with
    | stereo => cases hone
    | mono => simp only [subbandBits, hv, ha, Option.map_some]
    | isx => simp only [subbandBits, hv, ha, Option.map_some]
  | ch2 =>
    obtain rfl := hst hc
    obtain ⟨a1, ha1, -⟩ := allocFor_of_read hread hv .ch1
    rw [allocFor_ch1] at ha1
    rw [hc] at ha
    have ha2 : e.alloc2 = some a := ha
    simp only [readInSubband_ch2 hc he ha1, subbandBits, hv, ha1, ha2]

/-! ### Samples -/

/-- What a slot of the sample loop leaves in its entry: the code read, or nothing where the gate is closed or the
channel is silent (spec/45_samples_sink.md R305, R310). -/
def SampleSlot (g : Bool) (a : BitVec 4) (c : Chan) (e e' : SubbandRegs) : Prop :=
  ((g = true → signalled a = false) ∧ e' = e) ∨ ∃ r, e' = putRaw c r e

/-- A slot keeps everything in an entry but the sample codes. -/
theorem SampleSlot.frame {g : Bool} {a : BitVec 4} {c : Chan} {e e' : SubbandRegs} (h : SampleSlot g a c e e') :
    e'.variant = e.variant ∧ e'.alloc1 = e.alloc1 ∧ e'.alloc2 = e.alloc2 ∧ e'.scf1 = e.scf1 ∧ e'.scf2 = e.scf2 := by
  rcases h with ⟨-, rfl⟩ | ⟨r, rfl⟩
  · exact ⟨rfl, rfl, rfl, rfl, rfl⟩
  · cases c <;> exact ⟨rfl, rfl, rfl, rfl, rfl⟩

/-- After the slot of channel 1, its code is there where the gate is open and the channel is signalled. -/
theorem SampleSlot.present {g : Bool} {a : BitVec 4} {e e' : SubbandRegs} (h : SampleSlot g a .ch1 e e')
    (hg : g = true) : presentIf (some a) e'.raw1 = true := by
  rcases h with ⟨hs, rfl⟩ | ⟨r, rfl⟩
  · simp [presentIf, hs hg]
  · simp [presentIf, putRaw]

/-- Whether an entry's indices have been read depends on its variant, its codes and its indices. -/
theorem scfRead_congr {e e' : SubbandRegs} (hv : e'.variant = e.variant) (h1 : e'.alloc1 = e.alloc1)
    (h2 : e'.alloc2 = e.alloc2) (hs1 : e'.scf1 = e.scf1) (hs2 : e'.scf2 = e.scf2) : scfRead e' = scfRead e := by
  rw [scfRead, scfRead, hv, h1, h2, hs1, hs2]

/-- The end of a turn, by the next slot's place (spec/45_samples_sink.md R304). -/
theorem finishSampleSlot_slot {s t : State} {e : SubbandRegs} {v : Variant} (he : s.sb[s.sbi]? = some e)
    (hv : e.variant = some v) (h : finishSampleSlot s = .next t) :
    ∃ l b1 b2, t = { s with
      hist := l, bank1 := b1, bank2 := b2, chan := slotChan s.chan (secondAlloc v)
      sbi := slotSbi s.chan (secondAlloc v) s.sbi } := by
  rw [finishSampleSlot, withSubband_eq he, hv, require_some] at h
  split at h
  · next hc =>
    rw [nextSlot_slot, ← hc.2] at h
    cases h
    exact ⟨s.hist, s.bank1, s.bank2, rfl⟩
  · next hc =>
    unfold emitSubband at h
    obtain ⟨g, -, h⟩ := require_next.1 h
    obtain ⟨m, -, h⟩ := require_next.1 h
    split at h
    · cases h
    · next v1 v2 _ =>
      obtain ⟨b1, b2, l, hfw, -⟩ := forward_shape m s.sbi v1 v2 s
      rw [hfw] at h
      cases h
      exact ⟨s.hist ++ l, b1, b2, by simp [nextSlot, slotChan, slotSbi, hc]⟩

/-- A signalled code that is not the reserved one has a sample length of the format (spec/30_encoding.md R123). -/
theorem sampleLength_range :
    ∀ a : BitVec 4, signalled a = true → a ≠ 15#4 → 2 ≤ sampleLength a ∧ sampleLength a ≤ 15 := by
  decide

/-- A signalled code asks for its sample length (spec/45_samples_sink.md R318). -/
theorem codeBits_signalled {a : BitVec 4} (h : signalled a = true) : codeBits a = sampleLength a := by
  rw [codeBits, if_neg (by simpa [signalled] using h)]

/-- A silent code asks for nothing (spec/45_samples_sink.md R318). -/
theorem codeBits_silent {a : BitVec 4} (h : signalled a = false) : codeBits a = 0 := by
  rw [codeBits, if_pos (by simpa [signalled] using h)]

/-- A slot of the sample loop: an exception, or the slot done, with the bits of its code taken where the gate is open
(spec/45_samples_sink.md R304, R305, R310). -/
theorem step_sample_slot {s t : State} {e : SubbandRegs} {v : Variant} {a : BitVec 4} {g : Bool} (ht : s.top = .busy)
    (hp : s.phase = .samples) (hn : s.geo.subbandCount = some 32) (hpos : s.bitpos ≤ 8 * s.fb.length)
    (hat : SlotAt s e v a) (hg : s.gateOk = some g) (h : step s = .next t) :
    t = raise .frameOverrun s ∨
    ∃ e' b l b1 b2, SampleSlot g a s.chan e e' ∧ b ≤ 8 * s.fb.length ∧ (g = true → b = s.bitpos + codeBits a) ∧
      t = { s with
        bitpos := b, hist := l, bank1 := b1, bank2 := b2, sb := s.sb.setIfInBounds s.sbi e'
        chan := slotChan s.chan (secondAlloc v), sbi := slotSbi s.chan (secondAlloc v) s.sbi } := by
  have hl := hat.lt
  obtain ⟨he, hv, -, ha, h15⟩ := hat
  have hf : fetch s = if g then if signalled a then fetchBits (.q (sampleLength a)) s else .noElement
      else .noElement := by
    simp only [fetch, hp, fetchSample, hn, fetchReg_some, if_pos hl, hg, fetchSubband_eq he hv, ha]
  by_cases hs : g = true ∧ signalled a = true
  · obtain ⟨rfl, hs⟩ := hs
    rw [if_pos rfl, if_pos hs] at hf
    rcases step_element_next ht hf h with ⟨-, rfl⟩ | ⟨i, hd, hle, h⟩
    · exact .inl rfl
    · obtain ⟨h2, h15⟩ := sampleLength_range a hs h15
      obtain ⟨i', hi', hcode⟩ :=
        decodeSample_code h2 h15 ((bitsAt s.fb s.bitpos (Kind.q (sampleLength a)).width).zeroExtend 32)
      obtain rfl := Except.ok.inj (hd.symm.trans hi')
      rw [exec_sample hcode] at h
      obtain ⟨e1, he1, h⟩ := withSubband_next.1 h
      obtain rfl := Option.some.inj (he1.symm.trans he)
      obtain ⟨l, b1, b2, rfl⟩ := finishSampleSlot_slot (sb_set_get _ he1) (v := v) (by cases s.chan <;> exact hv) h
      exact .inr ⟨_, _, l, b1, b2, .inr ⟨_, rfl⟩, hle, fun _ => by rw [codeBits_signalled hs]; rfl, rfl⟩
  · have hskip : g = true → signalled a = false := fun h1 => by simpa [h1] using hs
    have hf : fetch s = .noElement := by
      rw [hf]
      cases g with
      | false => rfl
      | true => rw [if_pos rfl, hskip rfl]; rfl
    rw [step_sequencer ht hf, sequencer, hp] at h
    simp only [stepSamples, hn, require_some, if_pos hl] at h
    obtain ⟨l, b1, b2, rfl⟩ := finishSampleSlot_slot he hv h
    exact .inr ⟨e, s.bitpos, l, b1, b2, .inl ⟨hskip, rfl⟩, hpos, fun h1 => by rw [codeBits_silent (hskip h1)]; rfl,
      by rw [setIfInBounds_self he]⟩

/-- A slot adds its code's bits to what the totals and the channel count as read. -/
theorem slot_bits {s t : State} {e e' : SubbandRegs} {v : Variant} {a : BitVec 4} {p : Nat} (hat : SlotAt s e v a)
    (hst : s.chan = .ch2 → v = .stereo) (hp : totalBits s.sb s.sbi = some p)
    (hv' : e'.variant = e.variant) (h1 : e'.alloc1 = e.alloc1) (h2 : e'.alloc2 = e.alloc2)
    (hdone : SlotDone (secondAlloc v) e' s t) :
    ∃ p', totalBits t.sb t.sbi = some p' ∧ p' + readInSubband t = p + readInSubband s + codeBits a := by
  obtain ⟨hsb, hch, hsbi⟩ := hdone
  have hcongr := subbandBits_congr hv' h1 h2
  rw [hsb, totalBits_set hat.entry hcongr]
  rcases slot_cases s.chan (secondAlloc v) s.sbi with ⟨hc1, hv2, hc, hi⟩ | ⟨hlast, hc, hi⟩ <;>
    rw [hc] at hch <;> rw [hi] at hsbi
  · have ha1 : e'.alloc1 = some a := by rw [h1, ← hat.code, hc1, allocFor_ch1]
    have he' : t.sb[t.sbi]? = some e' := by rw [hsb, hsbi, sb_set_get e' hat.entry]
    exact ⟨p, hsbi ▸ hp, by rw [readInSubband_ch1 hc1, readInSubband_ch2 hch he' ha1]; omega⟩
  · have hb := subbandBits_last hat hst hlast
    exact ⟨_, hsbi ▸ totalBits_succ hp hat.entry hb, by rw [readInSubband_ch1 hch]; omega⟩

/-- The end of a repetition leaves the loop at the next one's start: its bits have all been taken
(spec/45_samples_sink.md R304, R318). -/
theorem SampleProgress.nextRepetition {s t : State} (hpr : SampleProgress s) (hend : s.sbi = 32)
    (hrep : t.rep = s.rep + 1) (hlt : t.rep < 12) (hg : t.gateOk = s.gateOk) (hb : t.bitpos = s.bitpos)
    (hfb : t.fb = s.fb) (hsb : t.sb = s.sb) (hi : t.sbi = 0) (hc : t.chan = .ch1) : SampleProgress t := by
  obtain ⟨-, g, hgate, hsecond, hlen⟩ := hpr
  have hch : s.chan = .ch1 := by
    cases hc : s.chan with
    | ch1 => rfl
    | ch2 =>
      obtain ⟨hlt, -⟩ := hsecond hc
      omega
  refine ⟨hlt, g, hg.trans hgate, fun h => absurd (hc.symm.trans h) (by decide), fun h => ?_⟩
  obtain ⟨w, p, hw, hp, hle⟩ := hlen h
  obtain rfl : p = w := by rw [hend, hw] at hp; exact (Option.some.inj hp).symm
  rw [readInSubband_ch1 hch, show 12 - s.rep = (12 - t.rep) + 1 by omega, Nat.add_mul] at hle
  exact ⟨p, 0, hsb ▸ hw, by rw [hi]; rfl, by rw [readInSubband_ch1 hc, hb, hfb]; omega⟩

/-- Where the sample loop stands after a slot (spec/45_samples_sink.md R304, R305, R318). -/
theorem SampleProgress.stored {s t : State} {e e' : SubbandRegs} {v : Variant} {a : BitVec 4} {g : Bool}
    (hpr : SampleProgress s) (hat : SlotAt s e v a) (hg : s.gateOk = some g) (hslot : SampleSlot g a s.chan e e')
    (hdone : SlotDone (secondAlloc v) e' s t) (hb : g = true → t.bitpos = s.bitpos + codeBits a)
    (hrep : t.rep = s.rep) (hgt : t.gateOk = s.gateOk) (hfb : t.fb = s.fb) : SampleProgress t := by
  obtain ⟨hlt, g', hgate, hsecond, hlen⟩ := hpr
  obtain rfl := Option.some.inj (hgate.symm.trans hg)
  obtain ⟨hv', h1, h2, -, -⟩ := hslot.frame
  refine ⟨hrep ▸ hlt, g', hgt.trans hg, fun hc2 => ?_, fun hopen => ?_⟩
  · rcases slot_cases s.chan (secondAlloc v) s.sbi with ⟨hc1, hv2, -, hi⟩ | ⟨-, hc, -⟩
    · have ha1 : e'.alloc1 = some a := by rw [h1, ← hat.code, hc1, allocFor_ch1]
      have he' : t.sb[t.sbi]? = some e' := by rw [hdone.sb, hdone.sbi, hi, sb_set_get e' hat.entry]
      obtain ⟨hk, hget⟩ := Vector.getElem?_eq_some_iff.1 he'
      rw [hc1] at hslot
      refine ⟨hk, ?_, fun hopen => ?_⟩ <;> rw [hget]
      · rw [hv', hat.variant, secondAlloc_iff.1 hv2]
      · rw [ha1]
        exact hslot.present hopen
    · exact absurd ((hdone.chan.trans hc).symm.trans hc2) (by decide)
  · obtain ⟨w, p, hw, hp, hle⟩ := hlen hopen
    have hst : s.chan = .ch2 → v = .stereo := fun hc => by
      obtain ⟨hk, hst, -⟩ := hsecond hc
      obtain ⟨_, rfl⟩ := Vector.getElem?_eq_some_iff.1 hat.entry
      exact Option.some.inj (hat.variant.symm.trans hst)
    obtain ⟨p', hp', hsum⟩ := slot_bits hat hst hp hv' h1 h2 hdone
    refine ⟨w, p', by rw [hdone.sb, totalBits_set hat.entry (subbandBits_congr hv' h1 h2), hw], hp', ?_⟩
    rw [hb hopen, hrep, hfb]
    omega

/-- `P_SAMPLES` keeps the invariant (spec/45_samples_sink.md R304, R305, R311, R318). -/
theorem step_samples_inv {s t : State} (hi : Inv s) (ht : s.top = .busy) (hp : s.phase = .samples)
    (h : step s = .next t) : Inv t := by
  have hr := hi.regs
  have hph := hi.phase ht
  rw [PhaseInv, hp] at hph
  obtain ⟨hlock, ⟨hk, hfs, hpos⟩, hprot, hcon, hall, hscf, hpr⟩ := hph
  have hsbi := hr.sbi
  by_cases hlt : s.sbi < 32
  · obtain ⟨v, a, hat⟩ := slotAt_of_allAlloc hcon hall hlt
    have ⟨_, g, hg, _⟩ := hpr
    rcases step_sample_slot ht hp hcon.2.1 hpos hat hg h with rfl | ⟨e', b, l, b1, b2, hslot, hb, hbits, rfl⟩
    · exact hr.raised
    · obtain ⟨hv', h1, h2, hs1, hs2⟩ := hslot.frame
      exact RegsInv.runningIn { hr with sbi := slotSbi_le hlt } ht hp
        ⟨hlock, ⟨hk, hfs, hb⟩, hprot, hcon.set hat.entry hv' rfl rfl rfl, hall.set hat.entry hv' h1 h2 rfl,
          entries_set (P := fun _ e => scfRead e = true) ((scfRead_congr hv' h1 h2 hs1 hs2).trans (hscf _ hlt))
            fun i hi _ => hscf i hi,
          hpr.stored hat hg hslot ⟨rfl, rfl, rfl⟩ hbits rfl rfl rfl⟩
  · obtain ⟨n, hn, ⟨-, h⟩ | ⟨hlt', -⟩ | ⟨hlt', -⟩ | ⟨hlt', -⟩⟩ := step_samples_next ht hp h <;>
      obtain rfl := Option.some.inj (hn.symm.trans hcon.2.1)
    · have hrep := hpr.1
      obtain ⟨m, hm, hcase⟩ := endRepetition_next h
      obtain ⟨b1, b2, l, hflush, -⟩ := flushSinks_shape m s
      rw [hflush] at hcase
      rcases hcase with ⟨hlt, rfl⟩ | ⟨hge, rfl⟩
      · exact RegsInv.runningIn { hr with rep := hrep, sbi := Nat.zero_le _ } ht hp
          ⟨hlock, ⟨hk, hfs, hpos⟩, hprot, hcon, hall, hscf,
            hpr.nextRepetition (by omega) rfl hlt rfl rfl rfl rfl rfl rfl⟩
      · exact RegsInv.running { hr with rep := hrep } ht
          ⟨hlock, ⟨hk, hfs, hpos⟩, hprot, hcon, by show s.rep + 1 = 12; omega⟩
    · omega
    · omega
    · omega

/-- `P_DONE` keeps the invariant (spec/46_frame_loop_host.md R343). -/
theorem step_done_inv {s t : State} (hi : Inv s) (ht : s.top = .busy) (hp : s.phase = .done)
    (h : step s = .next t) : Inv t := by
  rw [step_done_next ht hp h]
  exact RegsInv.stopped { hi.regs with } (fun h => nomatch h) ⟨rfl, rfl⟩

/-- Settles O58: while no command runs by the host's action, in a running command by the phase. -/
theorem stepKeepsInvariant : Obligations.StepKeepsInvariant := by
  intro s t hi h
  by_cases ht : s.top = .busy
  · cases hp : s.phase with
    | sync => exact step_sync_inv hi ht hp h
    | header => exact step_header_inv hi ht hp h
    | body => exact step_body_inv hi ht hp h
    | validate => exact step_validate_inv hi ht hp h
    | crcw => exact step_crcw_inv hi ht hp h
    | vbr => exact step_vbr_inv hi ht hp h
    | construct => exact step_construct_inv hi ht hp h
    | alloc => exact step_alloc_inv hi ht hp h
    | scf => exact step_scf_inv hi ht hp h
    | gate => exact step_gate_inv hi ht hp h
    | samples => exact step_samples_inv hi ht hp h
    | done => exact step_done_inv hi ht hp h
  · rw [step_idle ht] at h
    cases h
    exact hostStep_inv hi ht

/-! ### Parameters and reset -/

/-- The frame sizes of R6's tables are no smaller than 20 (spec/41_header.md R205, R206). -/
theorem frameSizeOf_default_ge (v : Version) (l : Layer) (br : BitVec 4) (sr : BitVec 2) (pad : Bool) :
    br ≠ 0#4 → br ≠ 15#4 → sr ≠ 3#2 → 20 ≤ frameSizeOf Config.defaultParams v l br sr pad := by
  cases v <;> cases l <;> cases pad <;> revert br sr <;> decide

/-- Settles O17: the least size by the tables, the greatest by the frame buffer that R6's values have. -/
theorem frameSizeRange : Obligations.FrameSizeRange := by
  intro v l t h0 h15 h3
  have hle := frameSizeOf_default_le v l t.bitrateIndex t.sampleRateIndex (bit t.padding) h0 h15 h3
  have hcap : Config.defaultParams.frameBufCap = 1725 := rfl
  rw [hcap] at hle
  exact ⟨_, rfl, frameSizeOf_default_ge _ _ _ _ _ h0 h15 h3, by omega, hle⟩

/-- The lock mask of R6's values is 0 exactly at the fields that vary from frame to frame (spec/40_sync.md R164). -/
theorem lockMask_default_zero :
    ∀ b, b < 32 → (Config.defaultParams.lockMask.getLsbD b = false ↔ FrameVariable b) := by
  unfold FrameVariable
  decide

/-- Settles O8: every register by its value in the reset state, the mask bit by bit. -/
theorem resetState : Obligations.ResetState := by
  unfold Obligations.ResetState
  refine ⟨rfl, rfl, rfl, rfl, rfl, rfl, rfl, rfl, rfl, rfl, rfl, rfl, rfl, rfl, rfl, rfl, rfl, rfl, rfl, rfl, rfl, rfl,
    lockMask_default_zero, rfl, rfl, rfl, le_refl _, rfl, rfl, rfl, rfl, rfl⟩

/-- Settles O57: the registers after reset are as they should be, and no command runs. -/
theorem resetMeetsInvariant : Obligations.ResetMeetsInvariant :=
  reset_regs.stopped (fun h => nomatch h) ⟨rfl, rfl⟩

end Sys2Proof.Machine
end

section
/-! PROOFS. What a step of the machine leaves alone and where it goes, said once for a running command (`RunningStep`)
and once for the host (`HostKeeps`): each register with the one phase that writes it. The claims about the sync mode,
the probe, the faults and the phases then look at that phase only. -/

namespace Sys2Proof.Machine

open Sys2Proof

/-! ### What a step of a running command leaves alone -/

/-- What a step of a running command leaves alone, each register but in the phase that writes it. -/
structure Keeps (s t : State) : Prop where
  stream : t.stream = s.stream
  chsel : t.chsel = s.chsel
  par : t.par = s.par
  faults : ∀ b, s.faults.getLsbD b = true → t.faults.getLsbD b = true
  bitpos : s.bitpos ≤ t.bitpos ∨ (s.phase = .body ∧ t.bitpos = 0)
  word : s.phase ≠ .sync → t.h = s.h
  header : s.phase ≠ .header → t.hdr = s.hdr ∧ t.geo = s.geo
  lock : s.phase ≠ .validate → t.syncMode = s.syncMode ∧ t.lock = s.lock
  probe : s.phase ≠ .vbr → t.first = s.first ∧ t.vbr = s.vbr

/-- A step that writes none of these registers. -/
theorem Keeps.refl (s : State) : Keeps s s where
  stream := rfl
  chsel := rfl
  par := rfl
  faults := fun _ h => h
  bitpos := .inl (Nat.le_refl _)
  word := fun _ => rfl
  header := fun _ => ⟨rfl, rfl⟩
  lock := fun _ => ⟨rfl, rfl⟩
  probe := fun _ => ⟨rfl, rfl⟩

/-- The phases of more than one step (log 1). -/
def ManySteps (p : Phase) : Prop := p = .vbr ∨ p = .alloc ∨ p = .scf ∨ p = .samples

/-- What a step of a running command leaves alone, and where it goes: along the table, on in its phase, or to the
command's end (spec/46_frame_loop_host.md R344, spec/60_exceptions.md R371). -/
structure RunningStep (s t : State) : Prop extends Keeps s t where
  goes : (t.top = .busy ∧ Transfer s.phase t.phase) ∨ (t.top = .busy ∧ t.phase = s.phase ∧ ManySteps s.phase) ∨
    (t.top ≠ .busy ∧ t.phase = s.phase)

/-- A transfer of the table (spec/46_frame_loop_host.md R344). -/
theorem Keeps.moved {s t : State} {p : Phase} (hk : Keeps s t) (ht : t.top = .busy) (hp : s.phase = p)
    (h : Transfer p t.phase) : RunningStep s t := { hk with goes := .inl ⟨ht, hp ▸ h⟩ }

/-- A step that is not the last of its phase. -/
theorem Keeps.stayed {s t : State} (hk : Keeps s t) (ht : t.top = .busy) (hp : t.phase = s.phase)
    (h : ManySteps s.phase) : RunningStep s t := { hk with goes := .inr (.inl ⟨ht, hp, h⟩) }

/-- The end of a command. -/
theorem Keeps.ended {s t : State} (hk : Keeps s t) (ht : t.top ≠ .busy) (hp : t.phase = s.phase) : RunningStep s t :=
  { hk with goes := .inr (.inr ⟨ht, hp⟩) }

/-- An exception ends the command: of these registers it writes `FAULTS`, where it adds a bit, and `PHASE` stays
(spec/60_exceptions.md R371). -/
theorem Keeps.raised {s u : State} {e : Exc} (hu : Keeps s u) (hp : u.phase = s.phase) : RunningStep s (raise e u) := by
  rw [raise_eq]
  exact Keeps.ended { hu with faults := fun b h => addFault_mono e u.faults b (hu.faults b h) } (excTop_ne_busy e) hp

/-- `P_SYNC` writes `H` (spec/40_sync.md R160). -/
theorem step_sync_running {s t : State} (ht : s.top = .busy) (hp : s.phase = .sync) (h : step s = .next t) :
    RunningStep s t := by
  rcases step_sync_next ht hp h with ⟨w, p, rfl⟩ | ⟨p, f, a, rfl⟩
  · exact Keeps.moved { Keeps.refl s with word := fun hne => absurd hp hne } ht hp rfl
  · exact Keeps.raised { Keeps.refl s with } rfl

/-- `P_HEADER` writes the header and geometry registers (spec/41_header.md R190). -/
theorem step_header_running {s t : State} (ht : s.top = .busy) (hp : s.phase = .header) (h : step s = .next t) :
    RunningStep s t := by
  obtain ⟨w, -, -, rfl⟩ := step_header_next ht hp h
  rcases headerWord_shape (headerFieldsOf w) s with ⟨r, g, h1⟩ | ⟨e, r, h1⟩ <;> rw [h1]
  · exact Keeps.moved { Keeps.refl s with header := fun hne => absurd hp hne } ht hp rfl
  · exact Keeps.raised { Keeps.refl s with header := fun hne => absurd hp hne } rfl

/-- `P_BODY` puts the cursor to 0 (spec/20_memory.md R76). -/
theorem step_body_running {s t : State} (ht : s.top = .busy) (hp : s.phase = .body) (h : step s = .next t) :
    RunningStep s t := by
  obtain ⟨n, -, ⟨-, rfl⟩ | ⟨-, -, rfl⟩ | ⟨-, -, rfl⟩⟩ := step_body_next ht hp h
  · exact Keeps.raised { Keeps.refl s with } rfl
  · exact Keeps.moved { Keeps.refl s with bitpos := .inr ⟨hp, rfl⟩ } ht hp (.inl rfl)
  · exact Keeps.moved { Keeps.refl s with bitpos := .inr ⟨hp, rfl⟩ } ht hp (.inr rfl)

/-- `P_VALIDATE` writes the sync mode and the lock (spec/40_sync.md R170). -/
theorem step_validate_running {s t : State} (ht : s.top = .busy) (hp : s.phase = .validate) (h : step s = .next t) :
    RunningStep s t := by
  rcases step_validate_next ht hp h with ⟨-, w, -, rfl⟩ | ⟨-, l, rfl, -⟩ | ⟨-, a, rfl⟩
  · exact Keeps.moved { Keeps.refl s with lock := fun hne => absurd hp hne } ht hp (.inl rfl)
  · exact Keeps.moved { Keeps.refl s with } ht hp (.inl rfl)
  · exact Keeps.moved { Keeps.refl s with } ht hp (.inr rfl)

/-- `P_CRCW` takes 16 bits (spec/41_header.md R210). -/
theorem step_crcw_running {s t : State} (ht : s.top = .busy) (hp : s.phase = .crcw) (h : step s = .next t) :
    RunningStep s t := by
  rcases step_crcw_next ht hp h with ⟨-, rfl⟩ | ⟨-, rfl | ⟨w, -, -, rfl⟩⟩
  · exact Keeps.moved { Keeps.refl s with } ht hp rfl
  · exact (Keeps.refl s).raised rfl
  · exact Keeps.moved { Keeps.refl s with bitpos := .inl (Nat.le_add_right ..) } ht hp rfl

/-- `P_VBR` writes `FIRST` and the VBR registers (spec/42_vbr.md R241). -/
theorem step_vbr_running {s t : State} (ht : s.top = .busy) (hp : s.phase = .vbr) (h : step s = .next t) :
    RunningStep s t := by
  rcases step_vbr_next ht hp h with
    ⟨-, r, -, ⟨p, rfl⟩ | rfl⟩ | ⟨-, -, rfl⟩ | ⟨p, rfl⟩ | ⟨-, -, rfl⟩ | ⟨-, rfl⟩
  · exact Keeps.stayed { Keeps.refl s with probe := fun hne => absurd hp hne } ht rfl (.inl hp)
  · exact Keeps.raised { Keeps.refl s with probe := fun hne => absurd hp hne } rfl
  · exact Keeps.stayed { Keeps.refl s with probe := fun hne => absurd hp hne } ht rfl (.inl hp)
  · exact Keeps.stayed { Keeps.refl s with } ht rfl (.inl hp)
  · exact Keeps.moved { Keeps.refl s with } ht hp rfl
  · exact (Keeps.refl s).raised rfl

/-- `P_CONSTRUCT` writes none of these registers (spec/44_alloc_scf.md R271). -/
theorem step_construct_running {s t : State} (ht : s.top = .busy) (hp : s.phase = .construct) (h : step s = .next t) :
    RunningStep s t := by
  obtain ⟨m, b, n, -, -, -, rfl⟩ := step_construct_next ht hp h
  exact Keeps.moved { Keeps.refl s with } ht hp rfl

/-- `P_ALLOC` takes bits (spec/44_alloc_scf.md R272). -/
theorem step_alloc_running {s t : State} (ht : s.top = .busy) (hp : s.phase = .alloc) (h : step s = .next t) :
    RunningStep s t := by
  obtain ⟨n, -, ⟨-, h⟩ | ⟨-, h | h | h⟩⟩ := step_alloc_next ht hp h <;> rw [h]
  · exact Keeps.moved { Keeps.refl s with } ht hp rfl
  · exact (Keeps.refl s).raised rfl
  · exact Keeps.raised { Keeps.refl s with bitpos := .inl (Nat.le_add_right ..) } rfl
  · exact Keeps.stayed { Keeps.refl s with bitpos := .inl (Nat.le_add_right ..) } ht rfl (.inr (.inl hp))

/-- `P_SCF` takes bits (spec/44_alloc_scf.md R280). -/
theorem step_scf_running {s t : State} (ht : s.top = .busy) (hp : s.phase = .scf) (h : step s = .next t) :
    RunningStep s t := by
  obtain ⟨n, -, ⟨-, h⟩ | ⟨-, h | h | h⟩⟩ := step_scf_next ht hp h <;> rw [h]
  · exact Keeps.moved { Keeps.refl s with } ht hp rfl
  · exact (Keeps.refl s).raised rfl
  · exact Keeps.stayed { Keeps.refl s with bitpos := .inl (Nat.le_add_right ..) } ht rfl (.inr (.inr (.inl hp)))
  · exact Keeps.stayed { Keeps.refl s with } ht rfl (.inr (.inr (.inl hp)))

/-- `P_GATE` writes none of these registers (spec/45_samples_sink.md R301). -/
theorem step_gate_running {s t : State} (ht : s.top = .busy) (hp : s.phase = .gate) (h : step s = .next t) :
    RunningStep s t := by
  rcases step_gate_next ht hp h with rfl | rfl | rfl
  · exact Keeps.moved { Keeps.refl s with } ht hp rfl
  · exact Keeps.moved { Keeps.refl s with } ht hp rfl
  · exact Keeps.raised { Keeps.refl s with } rfl

/-- `P_SAMPLES` takes bits (spec/45_samples_sink.md R305). -/
theorem step_samples_running {s t : State} (ht : s.top = .busy) (hp : s.phase = .samples) (h : step s = .next t) :
    RunningStep s t := by
  obtain ⟨n, -, ⟨-, h⟩ | ⟨-, h⟩ | ⟨-, -, rfl⟩ | ⟨-, k, r, h⟩⟩ := step_samples_next ht hp h
  · obtain ⟨m, -, hcase⟩ := endRepetition_next h
    obtain ⟨b1, b2, l, hflush, -⟩ := flushSinks_shape m s
    rw [hflush] at hcase
    rcases hcase with ⟨-, rfl⟩ | ⟨-, rfl⟩
    · exact Keeps.stayed { Keeps.refl s with } ht rfl (.inr (.inr (.inr hp)))
    · exact Keeps.moved { Keeps.refl s with } ht hp rfl
  · rw [finishSampleSlot_frame h]
    exact Keeps.stayed { Keeps.refl s with } ht rfl (.inr (.inr (.inr hp)))
  · exact (Keeps.refl s).raised rfl
  · rw [storeSample_frame h]
    exact Keeps.stayed { Keeps.refl s with bitpos := .inl (Nat.le_add_right ..) } ht rfl (.inr (.inr (.inr hp)))

/-- `P_DONE` writes none of these registers (spec/46_frame_loop_host.md R343). -/
theorem step_done_running {s t : State} (ht : s.top = .busy) (hp : s.phase = .done) (h : step s = .next t) :
    RunningStep s t := by
  rw [step_done_next ht hp h]
  exact Keeps.ended { Keeps.refl s with } (fun h => nomatch h) rfl

/-- Every step of a running command, by the phase it is in. -/
theorem step_running {s t : State} (ht : s.top = .busy) (h : step s = .next t) : RunningStep s t := by
  cases hp : s.phase with
  | sync => exact step_sync_running ht hp h
  | header => exact step_header_running ht hp h
  | body => exact step_body_running ht hp h
  | validate => exact step_validate_running ht hp h
  | crcw => exact step_crcw_running ht hp h
  | vbr => exact step_vbr_running ht hp h
  | construct => exact step_construct_running ht hp h
  | alloc => exact step_alloc_running ht hp h
  | scf => exact step_scf_running ht hp h
  | gate => exact step_gate_running ht hp h
  | samples => exact step_samples_running ht hp h
  | done => exact step_done_running ht hp h

/-- Settles O56: the stream's bytes are the stream's, and the rest is what a running step leaves alone. -/
theorem runningCommandKeeps : Obligations.RunningCommandKeeps := by
  intro s t ht h
  have hk := (step_running ht h).toKeeps
  exact ⟨hk.stream, fun a => by rw [hk.stream], hk.chsel, hk.par, hk.bitpos, hk.header, hk.word⟩

/-- Settles O54: a running step goes along the table, on in its phase or to the command's end. -/
theorem phaseOrder : Obligations.PhaseOrder := fun _ _ ht h => (step_running ht h).goes

/-! ### What the host leaves alone -/

/-- What every host action but `RESET` leaves alone (spec/10_state.md R24 to R27, R31). -/
structure HostKeeps (s t : State) : Prop where
  syncMode : t.syncMode = s.syncMode
  lock : t.lock = s.lock
  first : t.first = s.first
  vbr : t.vbr = s.vbr
  faults : t.faults = s.faults

/-- No host action but `RESET` writes the registers of `HostKeeps`. -/
theorem hostAction_keeps {a : HostAction} (ha : a ≠ .reset) (s : State) : HostKeeps s (hostAction a s) := by
  cases a with
  | reset => exact absurd rfl ha
  | setChannels c =>
    simp only [hostAction, setChannels]
    split <;> exact ⟨rfl, rfl, rfl, rfl, rfl⟩
  | decodeFrame =>
    simp only [hostAction, decodeFrame]
    split <;> exact ⟨rfl, rfl, rfl, rfl, rfl⟩
  | attach bytes endless pos => exact ⟨rfl, rfl, rfl, rfl, rfl⟩
  | moveReader pos => exact ⟨rfl, rfl, rfl, rfl, rfl⟩

/-- A step while no command runs: `RESET`, or these registers stay (spec/46_frame_loop_host.md R341). -/
theorem step_host_next {s t : State} (ht : s.top ≠ .busy) (h : step s = .next t) :
    (GivesReset s ∧ ∃ u, t = resetBlock u) ∨ HostKeeps s t := by
  rw [step_idle ht] at h
  cases h
  unfold hostStep
  split
  · exact .inr ⟨rfl, rfl, rfl, rfl, rfl⟩
  · next a rest hhost =>
    by_cases ha : a = .reset
    · subst ha
      exact .inl ⟨⟨ht, rest, hhost⟩, _, rfl⟩
    · exact .inr { hostAction_keeps ha { s with host := rest } with }

/-! ### The sync mode, the probe and the faults -/

/-- Settles O47: of a running command's phases only `P_VALIDATE` writes the sync mode and the lock, of the host's
actions only `RESET`. -/
theorem syncModeMachine : Obligations.SyncModeMachine := by
  intro s t h
  by_cases ht : s.top = .busy
  · by_cases hp : s.phase = .validate
    · rcases step_validate_next ht hp h with ⟨hm, w, hw, rfl⟩ | ⟨-, l, rfl, -⟩ | ⟨-, a, rfl⟩
      · exact .inr (.inl ⟨hm, rfl, ht, hp, rfl, w, hw, rfl⟩)
      · exact .inl ⟨rfl, rfl⟩
      · exact .inl ⟨rfl, rfl⟩
    · exact .inl ((step_running ht h).lock hp)
  · rcases step_host_next ht h with ⟨hr, u, rfl⟩ | hk
    · exact .inr (.inr ⟨hr, rfl, rfl⟩)
    · exact .inl ⟨hk.syncMode, hk.lock⟩

/-- A step in `P_VBR` changes `FIRST` at the probe's start and the VBR registers at a tag (spec/42_vbr.md R241, R243,
R249). -/
theorem step_vbr_probe {s t : State} (ht : s.top = .busy) (hp : s.phase = .vbr) (h : step s = .next t) :
    (t.first = s.first ∨ (s.probe = .start ∧ s.first = true ∧ t.first = false)) ∧
      (t.vbr = s.vbr ∨ ((s.probe = .xing ∨ s.probe = .vbri) ∧ t.vbr.isVbr = true)) := by
  rcases step_vbr_next ht hp h with
    ⟨hpr, r, hr, ⟨p, rfl⟩ | rfl⟩ | ⟨hpr, hf, rfl⟩ | ⟨p, rfl⟩ | ⟨-, -, rfl⟩ | ⟨-, rfl⟩
  · exact ⟨.inl rfl, .inr ⟨hpr, hr⟩⟩
  · exact ⟨.inl (raise_first ..), .inr ⟨hpr, by rwa [raise_vbr]⟩⟩
  · exact ⟨.inr ⟨hpr, hf, rfl⟩, .inl rfl⟩
  · exact ⟨.inl rfl, .inl rfl⟩
  · exact ⟨.inl rfl, .inl rfl⟩
  · exact ⟨.inl (raise_first ..), .inl (raise_vbr ..)⟩

/-- Settles O42: of a running command's phases only `P_VBR` writes these registers, of the host's actions only
`RESET`. -/
theorem probeRunsOnce : Obligations.ProbeRunsOnce := by
  intro s t h
  by_cases ht : s.top = .busy
  · by_cases hp : s.phase = .vbr
    · obtain ⟨hfirst, hvbr⟩ := step_vbr_probe ht hp h
      exact ⟨fun hne => .inr ⟨ht, hp, hfirst.resolve_left hne⟩, fun hne => .inr ⟨ht, hp, hvbr.resolve_left hne⟩⟩
    · obtain ⟨hfirst, hvbr⟩ := (step_running ht h).probe hp
      exact ⟨fun hne => absurd hfirst hne, fun hne => absurd hvbr hne⟩
  · rcases step_host_next ht h with ⟨hr, u, rfl⟩ | hk
    · exact ⟨fun _ => .inl ⟨hr, rfl⟩, fun _ => .inl hr⟩
    · exact ⟨fun hne => absurd hk.first hne, fun hne => absurd hk.vbr hne⟩

/-- Settles O55: an exception only adds a bit, no other step of a command writes `FAULTS`, and of the host's actions
only `RESET` does. -/
theorem faultsSticky : Obligations.FaultsSticky := by
  intro s t h
  by_cases ht : s.top = .busy
  · exact .inr (step_running ht h).faults
  · rcases step_host_next ht h with ⟨hr, u, rfl⟩ | hk
    · exact .inl ⟨hr, rfl⟩
    · exact .inr fun b hb => by rwa [hk.faults]

end Sys2Proof.Machine
end

section
/-! PROOFS. A step runs the element at the sequencer's position, and from the states of the invariant every step
answers: each register that the phase reads is there, each element decodes. -/

namespace Sys2Proof.Machine

open Sys2Proof

/-! ### A step runs the element at the sequencer's position -/

/-- What the decoder needs to read an element from bytes. -/
theorem decodeAt_ok {k : Kind} {bytes : List Byte} {pos : Nat} {i : Instr} (h : decodeAt k bytes pos = .ok i) :
    pos + k.width ≤ 8 * bytes.length ∧ decodeWord k ((bitsAt bytes pos k.width).zeroExtend 32) = .ok i := by
  unfold decodeAt at h
  split at h
  · cases h
  · exact ⟨by omega, h⟩

/-- A step where a body element stands that fits and decodes is `exec` of it, after its bits were taken
(spec/10_state.md R41). -/
theorem step_element_eq {k : Kind} {s : State} {i : Instr} (ht : s.top = .busy) (hf : fetch s = fetchBits k s)
    (h : decodeAt k s.fb s.bitpos = .ok i) :
    step s = exec i { s with bitpos := s.bitpos + k.width, hist := s.hist ++ [.getBits k.width] } := by
  obtain ⟨hle, hd⟩ := decodeAt_ok h
  rcases fetchBits_cases k s with ⟨hlt, -⟩ | ⟨-, h1⟩
  · omega
  · rw [step_busy ht, busyStep, hf, h1, decoded, hd]

/-- A step at `P_HEADER` is `exec` of the header word's element (spec/41_header.md R190). -/
theorem step_header_eq {s : State} {w : Word} {i : Instr} (ht : s.top = .busy) (hp : s.phase = .header)
    (hw : s.h = some w) (hd : decodeHeader w = .ok i) : step s = exec i s := by
  rw [step_busy ht, busyStep, fetch, hp]
  simp only [hw, fetchReg_some, decoded, decodeWord, hd]

/-- A step where the probe finds its tag is `exec` of the tag (spec/42_vbr.md R241). -/
theorem step_tag_eq {s : State} {x n : Nat} {i : Instr} (ht : s.top = .busy) (hf : fetch s = fetchTag x i s)
    (hx : x + 4 ≤ s.fb.length) (hn : bytesAt s x = n) (hi : decodeTag (BitVec.ofNat 32 n) = .ok i) :
    step s = exec i s := by
  rw [step_busy ht, busyStep, hf, fetchTag, if_neg (by omega), be32_eq, hn, if_pos hi]

/-- The Xing offset is the statements' (spec/42_vbr.md R242). -/
theorem xingOffset_eq (v : Version) (m : Mode) : xingOffset v m = specSide v m := by
  cases v <;> cases m <;> rfl

/-- Settles O13: the header word's element, a body element and the two tags, each by what the fetch finds. -/
theorem stepRunsElement : Obligations.StepRunsElement := by
  refine ⟨fun s w i => step_header_eq, fun s k i ht hk => step_element_eq ht (fetch_elementAt hk), ?_, ?_⟩
  · intro s v m ht hp hpr hv hm hx htag
    have hf : fetch s = fetchTag (specSide v m) .xing s := by
      simp only [fetch, hp, fetchProbe, hpr, hv, hm, fetchReg_some, xingOffset_eq]
    exact step_tag_eq ht hf hx htag rfl
  · intro s ht hp hpr hx htag
    have hf : fetch s = fetchTag 32 .vbri s := by
      simp only [fetch, hp, fetchProbe, hpr, vbriOffset]
    exact step_tag_eq ht hf hx htag rfl

/-! ### The search, the header and the body -/

/-- The search has the lock it compares with (spec/40_sync.md R161, R162). -/
theorem LockInv.known {s : State} (h : LockInv s) : ∃ l, ∀ k, withLock s k = k l := by
  unfold withLock
  cases hm : s.syncMode with
  | initialSync => exact ⟨0#32, fun _ => rfl⟩
  | strictSync =>
    obtain ⟨l, hl, -⟩ := h.strict hm
    exact ⟨l, fun k => by simp only [hl, require_some]⟩

/-- `P_SYNC` answers, or searches an endless stream for ever (spec/40_sync.md R160). -/
theorem step_sync_safe {s : State} (hl : LockInv s) (ht : s.top = .busy) (hp : s.phase = .sync) : SafeStep s := by
  obtain ⟨l, hlock⟩ := hl.known
  have hseq : step s = stepSync s := by rw [step_sequencer ht (by simp only [fetch, hp]), sequencer, hp]
  rw [SafeStep, hseq, stepSync, hlock]
  rcases rdSync_cases s.syncMode l s with ⟨-, h⟩ | ⟨-, p, w, -, h⟩ | ⟨-, -, h⟩ | ⟨-, hlen, h⟩ <;> rw [h]
  · exact .inl ⟨_, rfl⟩
  · exact .inl ⟨_, rfl⟩
  · exact .inl ⟨_, rfl⟩
  · exact .inr ⟨rfl, ht, hp, hlen⟩

/-- `P_HEADER` answers: a word with the sync bits is an element (spec/30_encoding.md R112). -/
theorem step_header_answers {s : State} {w : Word} (ht : s.top = .busy) (hp : s.phase = .header) (hw : s.h = some w)
    (hsync : w &&& syncMask = syncMask) : ∃ t, step s = .next t := by
  have hd : decodeHeader w = .ok (headerInstr (headerFieldsOf w)) := if_pos ((syncBits_iff w).2 hsync)
  exact ⟨_, (step_header_eq ht hp hw hd).trans (exec_header (headerInstr_fields _) s)⟩

/-- The body of a decoded header fits the frame buffer (spec/20_memory.md R76). -/
theorem HeaderKnown.body {s : State} (hk : HeaderKnown s) (hpar : ParamsOk s.par) :
    ∃ n, s.geo.frameSize = some n ∧ n ≤ s.par.frameBufCap := by
  obtain ⟨w, v, l, -, -, -, -, hrate, hbr, -, hgeo⟩ := hk
  simp only [badBitrate, Bool.or_eq_false_iff, beq_eq_false_iff_ne] at hbr
  obtain ⟨h0, h15⟩ := hbr
  rw [hgeo]
  exact ⟨_, rfl, hpar.bodies _ _ _ _ _ h0 h15 hrate⟩

/-- The registers of a decoded header hold values (spec/41_header.md R209). -/
theorem HeaderKnown.fields {s : State} (hk : HeaderKnown s) :
    ∃ v l m p, s.hdr.version = some v ∧ s.hdr.layer = some l ∧ s.hdr.mode = some m ∧ s.hdr.prot = some p := by
  obtain ⟨w, v, l, -, -, -, -, -, -, hhdr, -⟩ := hk
  rw [hhdr]
  exact ⟨v, l, _, _, rfl, rfl, rfl, rfl⟩

/-- `P_BODY` answers (spec/40_sync.md R160, spec/20_memory.md R76). -/
theorem step_body_answers {s : State} {n : Nat} (ht : s.top = .busy) (hp : s.phase = .body)
    (hn : s.geo.frameSize = some n) (hle : n ≤ s.par.frameBufCap) : ∃ t, step s = .next t := by
  rw [step_sequencer ht (by simp only [fetch, hp]), sequencer, hp]
  simp only [stepBody, hn, require_some, if_neg (Nat.not_lt.2 hle)]
  rcases rdReadFrame_cases n s with ⟨-, h⟩ | ⟨-, h⟩ <;> rw [h]
  · exact ⟨_, rfl⟩
  · exact ⟨_, rfl⟩

/-! ### Validation and the checksum field -/

/-- A candidate whose header is in `H` can be accepted (spec/40_sync.md R170). -/
theorem acceptFrame_answers {s : State} {w : Word} (hw : s.h = some w) : ∃ t, acceptFrame s = .next t := by
  unfold acceptFrame
  split
  · exact ⟨_, by rw [hw, require_some]⟩
  · exact ⟨_, rfl⟩

/-- `P_VALIDATE` answers (spec/40_sync.md R168 to R170). -/
theorem step_validate_answers {s : State} {w : Word} (hl : LockInv s) (ht : s.top = .busy) (hp : s.phase = .validate)
    (hw : s.h = some w) : ∃ t, step s = .next t := by
  rw [step_sequencer ht (by simp only [fetch, hp]), sequencer, hp]
  simp only [stepValidate]
  split
  · exact acceptFrame_answers hw
  · exact acceptFrame_answers hw
  · next hm _ =>
    obtain ⟨l, hlock, -⟩ := hl.strict hm
    simp only [hlock, require_some]
    split
    · exact acceptFrame_answers hw
    · exact ⟨_, rfl⟩

/-- A step where a body element stands answers, if every element of its format decodes and runs; a read past the body
is an exception (spec/20_memory.md R83). -/
theorem step_element_answers {k : Kind} {s : State} (ht : s.top = .busy) (hf : fetch s = fetchBits k s)
    (hrun : ∀ w, ∃ i, decodeWord k w = .ok i ∧
      ∃ t, exec i { s with bitpos := s.bitpos + k.width, hist := s.hist ++ [.getBits k.width] } = .next t) :
    ∃ t, step s = .next t := by
  rw [step_busy ht, busyStep, hf]
  rcases fetchBits_cases k s with ⟨-, h⟩ | ⟨-, h⟩ <;> rw [h]
  · exact ⟨_, rfl⟩
  · obtain ⟨i, hd, hexec⟩ := hrun ((bitsAt s.fb s.bitpos k.width).zeroExtend 32)
    rw [decoded, hd]
    exact hexec

/-- `P_CRCW` answers (spec/41_header.md R210). -/
theorem step_crcw_answers {s : State} {w : Word} {p : Bool} (ht : s.top = .busy) (hp : s.phase = .crcw)
    (hw : s.h = some w) (hprot : s.hdr.prot = some p) : ∃ t, step s = .next t := by
  cases p with
  | false =>
    rw [step_sequencer ht (by simp [fetch, hp, hprot]), sequencer, hp]
    exact ⟨_, rfl⟩
  | true =>
    refine step_element_answers ht (k := .c16) (by simp [fetch, hp, hprot]) fun c => ⟨_, rfl, ?_⟩
    simp only [exec, execCrcw, hw, require_some]
    exact ⟨_, rfl⟩

/-! ### The probe and construction -/

/-- A block's end answers whichever way the block ended (spec/42_vbr.md R251). -/
theorem endBlock_answers (p : Probe) (b : Block) : ∃ t, endBlock p b = .next t := by
  cases b with
  | going o s => exact ⟨_, rfl⟩
  | corrupt s => exact ⟨_, rfl⟩

/-- A metadata tag runs where the header is known (spec/42_vbr.md R243, R249). -/
theorem exec_tag_answers {i : Instr} {s : State} {v : Version} {m : Mode} (hi : i = .xing ∨ i = .vbri)
    (hv : s.hdr.version = some v) (hm : s.hdr.mode = some m) : ∃ t, exec i s = .next t := by
  rcases hi with rfl | rfl
  · simp only [exec, execXing, hv, hm, require_some]
    exact endBlock_answers ..
  · exact endBlock_answers ..

/-- The probe reads no register that holds "none" where the header is known (spec/42_vbr.md R242). -/
theorem fetchProbe_known {s : State} {v : Version} {m : Mode} (hv : s.hdr.version = some v) (hm : s.hdr.mode = some m)
    (f : Fault) : fetchProbe s ≠ .stopped f := by
  have tag : ∀ x i, fetchTag x i s ≠ .stopped f := by
    intro x i
    unfold fetchTag
    split_ifs <;> exact fun h => nomatch h
  unfold fetchProbe
  split
  · simp only [hv, hm, fetchReg_some]
    exact tag _ _
  · exact tag _ _
  · exact fun h => nomatch h
  · exact fun h => nomatch h

/-- The probe's own steps answer where the layer is known (spec/42_vbr.md R241). -/
theorem stepProbe_answers {s : State} {l : Layer} (hl : s.hdr.layer = some l) : ∃ t, stepProbe s = .next t := by
  unfold stepProbe
  cases s.probe with
  | start => exact ⟨_, rfl⟩
  | xing => exact ⟨_, rfl⟩
  | vbri => exact ⟨_, rfl⟩
  | done => exact ⟨_, by rw [hl, require_some]⟩

/-- `P_VBR` answers (spec/42_vbr.md R241). -/
theorem step_vbr_answers {s : State} {v : Version} {l : Layer} {m : Mode} (ht : s.top = .busy) (hp : s.phase = .vbr)
    (hv : s.hdr.version = some v) (hl : s.hdr.layer = some l) (hm : s.hdr.mode = some m) : ∃ t, step s = .next t := by
  have hf : fetch s = fetchProbe s := by rw [fetch, hp]
  rcases fetchProbe_cases s with ⟨i, hi, h⟩ | h | ⟨f, h⟩
  · rw [step_busy ht, busyStep, hf, h]
    exact exec_tag_answers hi hv hm
  · rw [step_sequencer ht (hf.trans h), sequencer, hp]
    exact stepProbe_answers hl
  · exact absurd h (fetchProbe_known hv hm f)

/-- `P_CONSTRUCT` answers (spec/44_alloc_scf.md R271). -/
theorem step_construct_answers {s : State} {m : Mode} {b n : Nat} (ht : s.top = .busy) (hp : s.phase = .construct)
    (hm : s.hdr.mode = some m) (hb : s.geo.bound = some b) (hn : s.geo.subbandCount = some n) :
    ∃ t, step s = .next t := by
  rw [step_sequencer ht (by simp only [fetch, hp]), sequencer, hp]
  simp only [stepConstruct, withBound, hm, hb, hn, require_some]
  split
  · exact ⟨_, rfl⟩
  · exact ⟨_, rfl⟩

/-! ### Allocation codes and scale-factor indices -/

/-- `P_ALLOC` answers (spec/44_alloc_scf.md R272, R273). -/
theorem step_alloc_answers {s : State} (ht : s.top = .busy) (hp : s.phase = .alloc) (hcon : ConstructedFor s)
    (hcrc : s.crcAttached = s.crcAcc.isSome) : ∃ t, step s = .next t := by
  obtain ⟨-, hn, m, b, -, -, hvar⟩ := hcon
  by_cases hlt : s.sbi < 32
  · refine step_element_answers ht (k := .a4) (by simp [fetch, hp, fetchAlloc, hn, hlt]) fun w => ⟨_, rfl, ?_⟩
    rw [exec_alloc (decodeAlloc_code _)]
    split
    · exact ⟨_, rfl⟩
    · exact ⟨_, storeAlloc_eq (Vector.getElem?_eq_getElem hlt) (hvar _ hlt) hcrc⟩
  · rw [step_sequencer ht (by simp [fetch, hp, fetchAlloc, hn, hlt]), sequencer, hp]
    exact ⟨_, rfl⟩

/-- `P_SCF` answers (spec/44_alloc_scf.md R280). -/
theorem step_scf_answers {s : State} (ht : s.top = .busy) (hp : s.phase = .scf) (hcon : ConstructedFor s)
    (hall : AllAlloc s) : ∃ t, step s = .next t := by
  have ⟨_, hn, _⟩ := hcon
  by_cases hlt : s.sbi < 32
  · obtain ⟨v, a, he, hv, -, ha, -⟩ := slotAt_of_allAlloc hcon hall hlt
    have hf : fetch s = if signalled a then fetchBits .s6 s else .noElement := by
      simp only [fetch, hp, fetchScf, hn, fetchReg_some, if_pos hlt, fetchSubband_eq he hv, ha]
    by_cases hs : signalled a = true
    · rw [if_pos hs] at hf
      refine step_element_answers ht hf fun w => ⟨_, rfl, ?_⟩
      rw [exec_scf (decodeScf_index _)]
      exact ⟨_, storeScf_eq he hv⟩
    · rw [if_neg hs] at hf
      rw [step_sequencer ht hf, sequencer, hp]
      simp only [stepScf, hn, require_some, if_pos hlt, withSubband_eq he, hv]
      exact ⟨_, rfl⟩
  · rw [step_sequencer ht (by simp [fetch, hp, fetchScf, hn, hlt]), sequencer, hp]
    simp only [stepScf, hn, require_some, if_neg hlt]
    exact ⟨_, rfl⟩

/-! ### The gate -/

/-- An entry whose codes have been read asks for a number of bits (spec/45_samples_sink.md R318). -/
theorem subbandBits_known {e : SubbandRegs} (h : allocRead e = true) : ∃ b, subbandBits e = some b := by
  cases hv : e.variant with
  | none => simp [allocRead, hv] at h
  | some v =>
    obtain ⟨a1, h1, -⟩ := allocFor_of_read h hv .ch1
    obtain ⟨a2, h2, -⟩ := allocFor_of_read h hv .ch2
    rw [allocFor_ch1] at h1
    cases v with
    | mono => exact ⟨codeBits a1, by simp only [subbandBits, hv, h1, Option.map_some]⟩
    | isx => exact ⟨codeBits a1, by simp only [subbandBits, hv, h1, Option.map_some]⟩
    | stereo =>
      have h2 : e.alloc2 = some a2 := h2
      exact ⟨codeBits a1 + codeBits a2, by simp only [subbandBits, hv, h1, h2]⟩

/-- After the allocation phase `W` is known (spec/45_samples_sink.md R318). -/
theorem AllAlloc.totalBits {s : State} (hall : AllAlloc s) {n : Nat} (hn : n ≤ 32) :
    ∃ w, totalBits s.sb n = some w := by
  induction n with
  | zero => exact ⟨0, rfl⟩
  | succ n ih =>
    obtain ⟨w, hw⟩ := ih (by omega)
    obtain ⟨b, hb⟩ := subbandBits_known (hall n hn)
    exact ⟨_, totalBits_succ hw (Vector.getElem?_eq_getElem hn) hb⟩

/-- The length check answers (spec/45_samples_sink.md R318). -/
theorem openGate_answers {s : State} (hn : s.geo.subbandCount = some 32) (hall : AllAlloc s) :
    ∃ t, openGate s = .next t := by
  obtain ⟨w, hw⟩ := hall.totalBits (le_refl _)
  simp only [openGate, hn, hw, require_some]
  split
  · exact ⟨_, rfl⟩
  · exact ⟨_, rfl⟩

/-- `P_GATE` answers (spec/45_samples_sink.md R301). -/
theorem step_gate_answers {s : State} (ht : s.top = .busy) (hp : s.phase = .gate)
    (hcrc : s.crcAttached = s.crcAcc.isSome ∧ s.crcAttached = s.crcField.isSome) (hn : s.geo.subbandCount = some 32)
    (hall : AllAlloc s) : ∃ t, step s = .next t := by
  rw [step_sequencer ht (by simp only [fetch, hp]), sequencer, hp]
  simp only [stepGate]
  split
  · next hatt =>
    obtain ⟨acc, hacc⟩ := Option.isSome_iff_exists.1 (hcrc.1.symm.trans hatt)
    obtain ⟨field, hfield⟩ := Option.isSome_iff_exists.1 (hcrc.2.symm.trans hatt)
    simp only [hacc, hfield, require_some]
    split
    · exact openGate_answers hn hall
    · exact ⟨_, rfl⟩
  · exact openGate_answers hn hall

/-! ### Samples -/

/-- A channel whose code and index are there where it is signalled has a value (spec/45_samples_sink.md R307 to
R310). -/
theorem channelValue_ready {p : Params} {g : Bool} {alloc : Option (BitVec 4)} {raw : Option (BitVec 15)}
    {scf : Option (BitVec 6)} (hraw : g = true → presentIf alloc raw = true) (hscf : presentIf alloc scf = true) :
    ∃ x, channelValue p g alloc raw scf = .ok x := by
  cases g with
  | false => exact ⟨_, rfl⟩
  | true =>
    have hraw := hraw rfl
    cases alloc with
    | none => cases hscf
    | some a =>
      cases hs : signalled a with
      | false => exact ⟨.number 0, by simp [channelValue, hs]⟩
      | true =>
        simp only [presentIf, hs, Bool.not_true, Bool.false_or, Option.isSome_iff_exists] at hraw hscf
        obtain ⟨r, rfl⟩ := hraw
        obtain ⟨i, rfl⟩ := hscf
        exact ⟨scl p (deq p r a) i, by simp only [channelValue, hs, if_true]⟩

/-- A subband whose codes and indices are there has its values (spec/45_samples_sink.md R307 to R309). -/
theorem subbandValues_ready {p : Params} {g : Bool} {v : Variant} {e : SubbandRegs} (hv : e.variant = some v)
    (hscf : scfRead e = true) (h1 : g = true → presentIf e.alloc1 e.raw1 = true)
    (h2 : v = .stereo → g = true → presentIf e.alloc2 e.raw2 = true) :
    ∃ v1 v2, subbandValues p g v e = .ok (v1, v2) := by
  rw [scfRead, hv] at hscf
  cases v with
  | mono =>
    obtain ⟨x, hx⟩ := channelValue_ready (p := p) h1 hscf
    exact ⟨x, none, by simp only [subbandValues, hx]⟩
  | stereo =>
    obtain ⟨hs1, hs2⟩ := Bool.and_eq_true_iff.1 hscf
    obtain ⟨x, hx⟩ := channelValue_ready (p := p) h1 hs1
    obtain ⟨y, hy⟩ := channelValue_ready (p := p) (h2 rfl) hs2
    exact ⟨x, some y, by simp only [subbandValues, hx, hy]⟩
  | isx =>
    obtain ⟨hs1, hs2⟩ := Bool.and_eq_true_iff.1 hscf
    obtain ⟨x, hx⟩ := channelValue_ready (p := p) h1 hs1
    obtain ⟨y, hy⟩ := channelValue_ready (p := p) h1 hs2
    exact ⟨x, some y, by simp only [subbandValues, hx, hy]⟩

/-- After the slot of channel 2, its code is there where the gate is open and the channel is signalled, and channel 1's
is the one that was there. -/
theorem SampleSlot.second {g : Bool} {a : BitVec 4} {e e' : SubbandRegs} (h : SampleSlot g a .ch2 e e') :
    (g = true → presentIf (some a) e'.raw2 = true) ∧ e'.raw1 = e.raw1 := by
  rcases h with ⟨hs, rfl⟩ | ⟨r, rfl⟩
  · exact ⟨fun hg => by simp [presentIf, hs hg], rfl⟩
  · exact ⟨fun _ => by simp [presentIf, putRaw], rfl⟩

/-- A turn of the sample loop, with what it reads: the slot, its entry's indices, channel 1's code where channel 2 is
next, the gate and the mode (spec/45_samples_sink.md R304 to R309). -/
structure SampleTurn (s : State) (e : SubbandRegs) (v : Variant) (a : BitVec 4) (g : Bool) (m : Mode) : Prop
    extends SlotAt s e v a where
  scf : scfRead e = true
  second : s.chan = .ch2 → v = .stereo ∧ (g = true → presentIf e.alloc1 e.raw1 = true)
  gate : s.gateOk = some g
  mode : s.hdr.mode = some m

/-- At a subband's last turn the codes of all its channels are there (spec/45_samples_sink.md R304, R305). -/
theorem SampleTurn.ready {s : State} {e e' : SubbandRegs} {v : Variant} {a : BitVec 4} {g : Bool} {m : Mode}
    (hat : SampleTurn s e v a g m) (hslot : SampleSlot g a s.chan e e')
    (hlast : s.chan = .ch1 → secondAlloc v = false) :
    (g = true → presentIf e'.alloc1 e'.raw1 = true) ∧
      (v = .stereo → g = true → presentIf e'.alloc2 e'.raw2 = true) := by
  obtain ⟨-, h1, h2, -, -⟩ := hslot.frame
  have hcode := hat.code
  rw [h1, h2]
  cases hc : s.chan with
  | ch1 =>
    rw [hc] at hslot hcode
    rw [allocFor_ch1] at hcode
    rw [hcode]
    exact ⟨hslot.present, fun hst => absurd (secondAlloc_iff.2 hst) (by simp [hlast hc])⟩
  | ch2 =>
    rw [hc] at hslot hcode
    obtain ⟨rfl, hfirst⟩ := hat.second hc
    have hcode : e.alloc2 = some a := hcode
    obtain ⟨hpresent, hraw⟩ := hslot.second
    rw [hcode, hraw]
    exact ⟨hfirst, fun _ => hpresent⟩

/-- The end of a turn answers where the slot has left its code (spec/45_samples_sink.md R304). -/
theorem SampleTurn.finish {s u : State} {e e' : SubbandRegs} {v : Variant} {a : BitVec 4} {g : Bool} {m : Mode}
    (hat : SampleTurn s e v a g m) (hslot : SampleSlot g a s.chan e e') (he : u.sb[u.sbi]? = some e')
    (hc : u.chan = s.chan) (hg : u.gateOk = s.gateOk) (hh : u.hdr = s.hdr) : ∃ t, finishSampleSlot u = .next t := by
  obtain ⟨hv', h1, h2, hs1, hs2⟩ := hslot.frame
  have hv := hv'.trans hat.variant
  by_cases hmore : u.chan = .ch1 ∧ secondAlloc v = true
  · exact ⟨_, finishSampleSlot_first he hv hmore.1 hmore.2⟩
  · have hlast : s.chan = .ch1 → secondAlloc v = false := fun h => by simpa [hc, h] using hmore
    have hscf := (scfRead_congr hv' h1 h2 hs1 hs2).trans hat.scf
    obtain ⟨hr1, hr2⟩ := hat.ready hslot hlast
    obtain ⟨v1, v2, hx⟩ := subbandValues_ready (p := u.par) hv hscf hr1 hr2
    exact ⟨_, finishSampleSlot_last he hv hmore (hg.trans hat.gate) ((congrArg _ hh).trans hat.mode) hx⟩

/-- Taking the code's bits leaves the turn as it is (spec/20_memory.md R77). -/
theorem SampleTurn.taken {s : State} {e : SubbandRegs} {v : Variant} {a : BitVec 4} {g : Bool} {m : Mode}
    (hat : SampleTurn s e v a g m) (b : Nat) (l : List Event) :
    SampleTurn { s with bitpos := b, hist := l } e v a g m := { hat with }

/-- A sample code answers (spec/45_samples_sink.md R305). -/
theorem SampleTurn.store {s : State} {e : SubbandRegs} {v : Variant} {a : BitVec 4} {g : Bool} {m : Mode}
    (hat : SampleTurn s e v a g m) (r : BitVec 15) : ∃ t, storeSample r s = .next t := by
  rw [storeSample, withSubband_eq hat.entry]
  exact hat.finish (.inr ⟨r, rfl⟩) (sb_set_get _ hat.entry) rfl rfl rfl

/-- The end of a repetition answers (spec/45_samples_sink.md R311). -/
theorem endRepetition_answers {s : State} {m : Mode} (hm : s.hdr.mode = some m) : ∃ t, endRepetition s = .next t := by
  simp only [endRepetition, hm, require_some]
  split
  · exact ⟨_, rfl⟩
  · exact ⟨_, rfl⟩

/-- A turn of the sample loop answers (spec/45_samples_sink.md R304, R305, R310). -/
theorem SampleTurn.answers {s : State} {e : SubbandRegs} {v : Variant} {a : BitVec 4} {g : Bool} {m : Mode}
    (hat : SampleTurn s e v a g m) (ht : s.top = .busy) (hp : s.phase = .samples)
    (hn : s.geo.subbandCount = some 32) : ∃ t, step s = .next t := by
  have hlt := hat.lt
  have hf : fetch s = if g = true ∧ signalled a = true then fetchBits (.q (sampleLength a)) s else .noElement := by
    simp only [fetch, hp, fetchSample, hn, fetchReg_some, if_pos hlt, hat.gate, fetchSubband_eq hat.entry hat.variant,
      hat.code]
    cases g <;> simp
  by_cases hread : g = true ∧ signalled a = true
  · rw [if_pos hread] at hf
    obtain ⟨hlo, hhi⟩ := sampleLength_range a hread.2 hat.legal
    refine step_element_answers ht hf fun w => ?_
    obtain ⟨i, hi, hcode⟩ := decodeSample_code hlo hhi w
    refine ⟨i, hi, ?_⟩
    rw [exec_sample hcode]
    exact (hat.taken ..).store _
  · rw [if_neg hread] at hf
    rw [step_sequencer ht hf, sequencer, hp]
    simp only [stepSamples, hn, require_some, if_pos hlt]
    exact hat.finish (.inl ⟨fun h => by simpa [h] using hread, rfl⟩) hat.entry rfl rfl rfl

/-- `P_SAMPLES` answers (spec/45_samples_sink.md R304). -/
theorem step_samples_answers {s : State} (ht : s.top = .busy) (hp : s.phase = .samples) (hcon : ConstructedFor s)
    (hall : AllAlloc s) (hscf : AllScf s) (hpr : SampleProgress s) : ∃ t, step s = .next t := by
  have ⟨_, hn, m, _, hm, _⟩ := hcon
  by_cases hlt : s.sbi < 32
  · obtain ⟨-, g, hg, hsecond, -⟩ := hpr
    obtain ⟨v, a, hat⟩ := slotAt_of_allAlloc hcon hall hlt
    have hsecond : s.chan = .ch2 → v = .stereo ∧ (g = true → presentIf s.sb[s.sbi].alloc1 s.sb[s.sbi].raw1 = true) := by
      intro hc
      obtain ⟨_, hst, hraw⟩ := hsecond hc
      exact ⟨Option.some.inj (hat.variant.symm.trans hst), hraw⟩
    exact SampleTurn.answers ⟨hat, hscf _ hlt, hsecond, hg, hm⟩ ht hp hn
  · rw [step_sequencer ht (by simp [fetch, hp, fetchSample, hn, hlt]), sequencer, hp]
    simp only [stepSamples, hn, require_some, if_neg hlt]
    exact endRepetition_answers hm

/-! ### Every phase -/

/-- A step of a running command is safe in every phase of the invariant (spec/10_state.md R23). -/
theorem step_busy_safe {s : State} (hi : Inv s) (ht : s.top = .busy) : SafeStep s := by
  have hph := hi.phase ht
  unfold PhaseInv at hph
  cases hp : s.phase <;> rw [hp] at hph
  case sync => exact step_sync_safe hi.lock ht hp
  case header =>
    obtain ⟨-, -, -, w, hw, hsync⟩ := hph
    exact .inl (step_header_answers ht hp hw hsync)
  case body =>
    obtain ⟨-, -, -, hk⟩ := hph
    obtain ⟨n, hn, hle⟩ := hk.body hi.params
    exact .inl (step_body_answers ht hp hn hle)
  case validate =>
    obtain ⟨-, -, ⟨⟨w, _, _, hw, _⟩, -⟩, -⟩ := hph
    exact .inl (step_validate_answers hi.lock ht hp hw)
  case crcw =>
    obtain ⟨-, ⟨w, hw, -⟩, ⟨hk, -⟩, -⟩ := hph
    obtain ⟨v, l, m, p, -, -, -, hprot⟩ := hk.fields
    exact .inl (step_crcw_answers ht hp hw hprot)
  case vbr =>
    obtain ⟨-, ⟨hk, -⟩, -⟩ := hph
    obtain ⟨v, l, m, p, hv, hl, hm, -⟩ := hk.fields
    exact .inl (step_vbr_answers ht hp hv hl hm)
  case construct =>
    obtain ⟨-, ⟨hk, -⟩, -, hl⟩ := hph
    obtain ⟨m, b, hm, hb, hn⟩ := hk.layerOne hl
    exact .inl (step_construct_answers ht hp hm hb hn)
  case alloc =>
    obtain ⟨-, -, -, hcon, -⟩ := hph
    exact .inl (step_alloc_answers ht hp hcon hi.crc.1)
  case scf =>
    obtain ⟨-, -, -, hcon, hall, -⟩ := hph
    exact .inl (step_scf_answers ht hp hcon hall)
  case gate =>
    obtain ⟨-, -, -, ⟨-, hn, -⟩, hall, -⟩ := hph
    exact .inl (step_gate_answers ht hp hi.crc hn hall)
  case samples =>
    obtain ⟨-, -, -, hcon, hall, hscf, hpr⟩ := hph
    exact .inl (step_samples_answers ht hp hcon hall hscf hpr)
  case done =>
    rw [SafeStep, step_sequencer ht (by simp only [fetch, hp]), sequencer, hp]
    exact .inl ⟨_, rfl⟩

/-- Settles O59: the host's steps always answer, and a running command's by the phase's registers. -/
theorem invariantStatesAreSafe : Obligations.InvariantStatesAreSafe := by
  intro s hi
  by_cases ht : s.top = .busy
  · exact step_busy_safe hi ht
  · exact .inl ⟨_, step_idle ht⟩

end Sys2Proof.Machine
end

section
/-! PROOFS. Reading bits and elements: a bit of the bits taken is a bit of the bytes, and the decoder reads every
well-formed element back from its own bits, first as a word and then from the bytes that hold it. -/

namespace Sys2Proof.Machine

open Sys2Proof

/-! ### Bits of bytes -/

/-- Bit `n - 1 - j` of the bits taken is the bit `j` places further on (spec/20_memory.md R77). -/
theorem bitsAt_getLsbD (bytes : List Byte) (pos : Nat) {n j : Nat} (hj : j < n) :
    (bitsAt bytes pos n).getLsbD (n - 1 - j) = bitAt bytes (pos + j) := by
  induction n with
  | zero => omega
  | succ n ih =>
    rw [bitsAt, BitVec.getLsbD_concat]
    by_cases hlast : j = n
    · subst hlast
      rw [if_pos (by omega)]
    · rw [if_neg (by omega), show n + 1 - 1 - j - 1 = n - 1 - j by omega, ih (by omega)]

/-- Settles O6: the read fits, and its bits are the bytes' bits. -/
theorem getBitsReads : Obligations.GetBitsReads := by
  intro n s hfits
  exact ⟨_, getBits_fits hfits, fun j hj => bitsAt_getLsbD s.fb s.bitpos hj⟩

/-! ### A header word and its fields -/

/-- The number a header word is: each field at its place (spec/30_encoding.md R111). -/
theorem encodeHeader_toNat (v l : BitVec 2) (t : HdrTail) :
    (encodeHeader v l t).toNat =
      0x7FF * 2 ^ 21 + v.toNat * 2 ^ 19 + l.toNat * 2 ^ 17 + t.protection.toNat * 2 ^ 16
        + t.bitrateIndex.toNat * 2 ^ 12 + t.sampleRateIndex.toNat * 2 ^ 10 + t.padding.toNat * 2 ^ 9
        + t.privateBit.toNat * 2 ^ 8 + t.channelMode.toNat * 2 ^ 6 + t.modeExtension.toNat * 2 ^ 4
        + t.copyright.toNat * 2 ^ 3 + t.original.toNat * 2 ^ 2 + t.emphasis.toNat := by
  rw [encodeHeader, BitVec.toNat_ofNat, Nat.mod_eq_of_lt]
  omega

/-- A field of a word is the number `x` where `x` stands at its place. -/
theorem extract_eq {n : Nat} {w : Word} {k : Nat} {x : BitVec n} (h : w.toNat / 2 ^ k % 2 ^ n = x.toNat) :
    w.extractLsb' k n = x := by
  apply BitVec.eq_of_toNat_eq
  rw [BitVec.extractLsb'_toNat, Nat.shiftRight_eq_div_pow, h]

/-- The fields a header word was made of are read back (spec/30_encoding.md R111). -/
theorem headerFieldsOf_encodeHeader (v l : BitVec 2) (t : HdrTail) : headerFieldsOf (encodeHeader v l t) = ⟨v, l, t⟩ := by
  have hw := encodeHeader_toNat v l t
  have field : ∀ {n k : Nat} {x : BitVec n}, (encodeHeader v l t).toNat / 2 ^ k % 2 ^ n = x.toNat →
      (encodeHeader v l t).extractLsb' k n = x := extract_eq
  obtain ⟨p, br, sr, pad, priv, m, ext, c, o, e⟩ := t
  rw [hw] at field
  simp only [headerFieldsOf, HdrFields.mk.injEq, HdrTail.mk.injEq]
  refine ⟨?_, ?_, ?_, ?_, ?_, ?_, ?_, ?_, ?_, ?_, ?_, ?_⟩ <;> (apply field; dsimp only; omega)

/-- A header word has the sync bits (spec/30_encoding.md R112). -/
theorem encodeHeader_sync (v l : BitVec 2) (t : HdrTail) : (encodeHeader v l t).extractLsb' 21 11 = 0x7FF#11 := by
  apply extract_eq
  rw [encodeHeader_toNat]
  simp only [BitVec.toNat_ofNat]
  omega

/-- The bits of a number above a field, the field and the bits below it. -/
theorem mod_split (x k n : Nat) : x % 2 ^ (k + n) = x / 2 ^ k % 2 ^ n * 2 ^ k + x % 2 ^ k := by
  rw [Nat.pow_add, Nat.mod_mul, Nat.mul_comm, Nat.add_comm]

/-- A word with the sync bits is the header word of its fields (spec/30_encoding.md R111, R112). -/
theorem encodeHeader_headerFieldsOf {w : Word} (h : w.extractLsb' 21 11 = 0x7FF#11) :
    encodeHeader (headerFieldsOf w).versionBits (headerFieldsOf w).layerBits (headerFieldsOf w).tail = w := by
  have hsync : w.toNat / 2 ^ 21 % 2 ^ 11 = 0x7FF := by
    have := congrArg BitVec.toNat h
    rwa [BitVec.extractLsb'_toNat, Nat.shiftRight_eq_div_pow] at this
  have split := mod_split w.toNat
  have hw := split 21 11
  rw [Nat.mod_eq_of_lt w.isLt, hsync, split 19 2, split 17 2, split 16 1, split 12 4, split 10 2, split 9 1, split 8 1,
    split 6 2, split 4 2, split 3 1, split 2 1] at hw
  apply BitVec.eq_of_toNat_eq
  rw [encodeHeader_toNat, hw]
  simp only [headerFieldsOf, BitVec.extractLsb'_toNat, Nat.shiftRight_eq_div_pow, Nat.pow_zero, Nat.div_one,
    Nat.add_assoc]

/-! ### The decoder reads an element back from its bits -/

/-- An element's bits fit its format, and the decoder reads the element back from them. -/
def RoundTrips (i : Instr) : Prop := (encode i).toNat < 2 ^ i.kind.width ∧ decodeWord i.kind (encode i) = .ok i

/-- A well-formed header element is the row of its fields (spec/30_encoding.md R124). -/
theorem headerInstr_of_wf {i : Instr} {f : HdrFields} (hf : i.headerFields = some f) (hw : i.wf = true) :
    headerInstr f = i := by
  cases i <;> simp only [Instr.headerFields, Option.some.injEq, reduceCtorEq] at hf <;> subst hf <;>
    simp_all [Instr.wf, validVersion, validLayer, validRate, validBitrate, headerInstr, headerRow]

/-- A header element's bits are the header word of its fields. -/
theorem encode_header {i : Instr} {f : HdrFields} (hf : i.headerFields = some f) :
    i.kind = .h32 ∧ encode i = encodeHeader f.versionBits f.layerBits f.tail := by
  cases i <;> simp only [Instr.headerFields, Option.some.injEq, reduceCtorEq] at hf <;> subst hf <;> exact ⟨rfl, rfl⟩

/-- Header elements (spec/30_encoding.md R111, R124). -/
theorem header_roundTrips {i : Instr} {f : HdrFields} (hf : i.headerFields = some f) (hw : i.wf = true) :
    RoundTrips i := by
  obtain ⟨hk, he⟩ := encode_header hf
  rw [RoundTrips, hk, he]
  refine ⟨BitVec.isLt _, ?_⟩
  rw [decodeWord, decodeHeader, if_pos (encodeHeader_sync _ _ _), headerFieldsOf_encodeHeader, headerInstr_of_wf hf hw]

/-- A narrower value, widened, is read back from its low bits. -/
theorem extract_widened {n : Nat} (x : BitVec n) (h : n ≤ 32) : (x.zeroExtend 32 : Word).extractLsb' 0 n = x := by
  apply extract_eq
  rw [Nat.pow_zero, Nat.div_one, Nat.mod_eq_of_lt (Laws.EncodeFits.widened x h), BitVec.toNat_setWidth,
    Nat.mod_eq_of_lt (lt_of_lt_of_le x.isLt (Nat.pow_le_pow_right (by omega) h))]

/-- The checksum field (spec/30_encoding.md R116). -/
theorem crcw_roundTrips (c : BitVec 16) : RoundTrips (.crcw c) :=
  ⟨Laws.EncodeFits.crcw c, by simp only [Instr.kind, encode, decodeWord, extract_widened c (by decide)]⟩

/-- Allocation codes (spec/30_encoding.md R117). -/
theorem alloc_roundTrips {i : Instr} {a : BitVec 4} (h : i.allocCode = some a) : RoundTrips i := by
  unfold RoundTrips
  cases i <;> simp only [Instr.allocCode, reduceCtorEq] at h <;> decide

/-- Scale-factor indices; index 63 is `SCF.63` (spec/30_encoding.md R118, R124). -/
theorem scf_roundTrips {i : Instr} {x : BitVec 6} (h : i.scfIndex = some x) (hw : i.wf = true) : RoundTrips i := by
  cases i <;> simp only [Instr.scfIndex, reduceCtorEq] at h
  case scf63 => exact ⟨by decide, rfl⟩
  case scf j =>
    have hj : j ≠ 63#6 := by simpa [Instr.wf] using hw
    exact ⟨Laws.EncodeFits.scf j, by
      simp only [Instr.kind, encode, decodeWord, extract_widened j (by decide), decodeScf, if_neg hj]⟩

/-- Sample codes (spec/30_encoding.md R119). -/
theorem sample_roundTrips {i : Instr} {n : Nat} {r : BitVec 15} (h : i.sampleCode = some (n, r)) : RoundTrips i := by
  cases i <;> simp only [Instr.sampleCode, reduceCtorEq] at h <;>
    exact ⟨Laws.EncodeFits.widened _ (by decide), by
      simp (disch := decide) only [Instr.kind, encode, decodeWord, decodeSample, extract_widened]⟩

/-- The decoder reads every well-formed element back from its own bits (spec/30_encoding.md R111, R116 to R122). -/
theorem wf_roundTrips {i : Instr} (hw : i.wf = true) : RoundTrips i := by
  rcases Instr_families i with ⟨f, h⟩ | ⟨c, rfl⟩ | ⟨a, h⟩ | ⟨x, h⟩ | ⟨n, r, h⟩ | rfl | rfl
  · exact header_roundTrips h hw
  · exact crcw_roundTrips c
  · exact alloc_roundTrips h
  · exact scf_roundTrips h hw
  · exact sample_roundTrips h
  · exact ⟨by decide, rfl⟩
  · exact ⟨by decide, rfl⟩

/-- Packed bits are read back as the number they are (spec/30_encoding.md R127). -/
theorem bitsAt_packBits (before after : List Byte) {n w : Nat} (hw : w < 2 ^ n) :
    (bitsAt (before ++ packBits n w ++ after) (8 * before.length) n).toNat = w :=
  bitsAt_toNat _ _ _ _ hw fun j hj => bitAt_packBits before after n w j hj

/-- Settles O3: the bytes are long enough, their bits are the element's, and the decoder reads those back. -/
theorem elementReadFromBytes : Obligations.ElementReadFromBytes := by
  intro i before after hw
  obtain ⟨hfits, hdecode⟩ := wf_roundTrips hw
  have hbits : (bitsAt (before ++ packBits i.kind.width (encode i).toNat ++ after) (8 * before.length)
      i.kind.width).zeroExtend 32 = encode i := by
    apply BitVec.eq_of_toNat_eq
    rw [BitVec.toNat_setWidth, bitsAt_packBits before after hfits, Nat.mod_eq_of_lt (encode i).isLt]
  rw [decodeAt, if_neg, hbits, hdecode]
  simp only [packBits, List.length_append, List.length_map, List.length_range]
  omega

end Sys2Proof.Machine
end

section
/-! PROOFS. The reader's steps: a body element's read at `P_CRCW` and elsewhere, the search, the body read, and
validation, each by what the fetch finds and by what the transaction answers. -/

namespace Sys2Proof.Machine

open Sys2Proof

/-! ### The phases where no element stands -/

/-- The step at `P_SYNC` is the search. -/
theorem step_sync_eq {s : State} (ht : s.top = .busy) (hp : s.phase = .sync) : step s = stepSync s := by
  rw [step_sequencer ht (by simp only [fetch, hp]), sequencer, hp]

/-- The step at `P_BODY` is the body read. -/
theorem step_body_eq {s : State} (ht : s.top = .busy) (hp : s.phase = .body) : step s = stepBody s := by
  rw [step_sequencer ht (by simp only [fetch, hp]), sequencer, hp]

/-- The step at `P_VALIDATE` is the validation. -/
theorem step_validate_eq {s : State} (ht : s.top = .busy) (hp : s.phase = .validate) : step s = stepValidate s := by
  rw [step_sequencer ht (by simp only [fetch, hp]), sequencer, hp]

/-! ### Body elements -/

/-- Settles O7: the fetch takes the element's bits, and the read that passes the body's end changes nothing first. -/
theorem overReadRaises : Obligations.OverReadRaises := by
  intro s k ht hat hover
  rcases fetchBits_cases k s with ⟨-, h⟩ | ⟨hle, -⟩
  · rw [step_busy ht, busyStep, fetch_elementAt hat, h]
  · omega

/-- A 16-bit read that fits is a checksum field (spec/30_encoding.md R116). -/
theorem decodeAt_crcw {bytes : List Byte} {pos : Nat} (h : pos + 16 ≤ 8 * bytes.length) :
    decodeAt .c16 bytes pos = .ok (.crcw (bitsAt bytes pos 16)) := by
  rw [decodeAt, Kind.width, if_neg (by omega), decodeWord]
  congr 2
  exact extract_widened _ (by decide)

/-- The checksum's seed as the statements write it (spec/43_crc.md R263). -/
theorem crcSeed_eq (c : CrcParams) (h : Word) : crcSeed c h = crcAdd c c.init (h.toNat % 2 ^ 16) 16 := by
  rw [crcSeed, BitVec.extractLsb'_toNat, Nat.shiftRight_zero]

/-- Settles O21: a protected frame's field is an element, an unprotected frame has none. -/
theorem readChecksumField : Obligations.ReadChecksumField := by
  intro s p h ht hp hprot hh
  refine ⟨?_, ?_, ?_⟩
  · rintro rfl hfits
    have hat : ElementAt s .c16 := .inl ⟨hp, hprot, rfl⟩
    rw [step_element_eq ht (fetch_elementAt hat) (decodeAt_crcw hfits)]
    simp only [exec, execCrcw, hh, require_some, crcSeed_eq, Kind.width]
  · rintro rfl hover
    exact overReadRaises s .c16 ht (.inl ⟨hp, hprot, rfl⟩) hover
  · rintro rfl
    have hf : fetch s = .noElement := by simp [fetch, hp, hprot]
    rw [step_sequencer ht hf, sequencer, hp, stepUnprotected]

/-! ### The body read -/

/-- A body read of the whole frame (spec/20_memory.md R76). -/
theorem frameCount_full {st : Stream} {p n : Nat} (h : ∀ e, st.len = some e → p + n ≤ e) : frameCount st p n = n := by
  cases hlen : st.len with
  | none => simp [frameCount, bytesLeft, hlen]
  | some e =>
    have := h e hlen
    simp only [frameCount, bytesLeft, hlen, Option.map_some]
    omega

/-- A body read that the end of the stream cuts short (spec/20_memory.md R76). -/
theorem frameCount_short {st : Stream} {p n e : Nat} (hlen : st.len = some e) (h : e < p + n) :
    frameCount st p n = e - p := by
  simp only [frameCount, bytesLeft, hlen, Option.map_some]
  omega

/-- The body read, by how many bytes the byte source gives (spec/40_sync.md R160, R167). -/
theorem stepBody_answers {s : State} {n k : Nat} (hn : s.geo.frameSize = some n) (hcap : n ≤ s.par.frameBufCap)
    (hio : s.io.headD false = false) (hk : frameCount s.stream s.pos n = k) :
    stepBody s = .next
      (if k = n then { s with
        fb := streamBytes s.stream s.pos k, bitpos := 0, pos := s.pos + k, phase := .validate, io := s.io.tail
        hist := s.hist ++ [.rdReadFrame n (.count k)] }
      else { s with
        fb := [], bitpos := 0, pos := s.pos + k, phase := .sync, io := s.io.tail
        hist := s.hist ++ [.rdReadFrame n (.count k), .frameSizeMismatch, .rdClose] }) := by
  have hread : rdReadFrame n s = (.count k, logEvent (.rdReadFrame n (.count k))
      { s with io := s.io.tail, fb := streamBytes s.stream s.pos k, bitpos := 0, pos := s.pos + k }) := by
    rw [rdReadFrame, ioFails, hio, if_neg (by decide), hk]
  rw [stepBody, hn, require_some, if_neg (Nat.not_lt.2 hcap), hread]
  by_cases hkn : k = n
  · simp only [if_pos hkn, logEvent]
  · simp only [if_neg hkn, rejectShort, rdClose, logEvent, List.append_assoc, List.cons_append, List.nil_append]

/-- The body read of a failing byte source (spec/20_memory.md R82). -/
theorem stepBody_fails {s : State} {n : Nat} (hn : s.geo.frameSize = some n) (hcap : n ≤ s.par.frameBufCap)
    (hio : s.io.headD false = true) :
    stepBody s = .next (raise .ioFailure (logEvent (.rdReadFrame n .ioError) (failIo s))) := by
  rw [stepBody, hn, require_some, if_neg (Nat.not_lt.2 hcap), rdReadFrame, ioFails, hio, if_pos rfl]

/-- Settles O44: the read's answer is the frame size, or what is left, or a failure. -/
theorem bodyReadResult : Obligations.BodyReadResult := by
  intro s n ht hp hn hcap
  rw [step_body_eq ht hp]
  refine ⟨fun hio hfull => ?_, fun e hio hlen hle hshort => ?_, fun hio => ?_⟩
  · rw [stepBody_answers hn hcap hio (frameCount_full hfull), if_pos rfl, streamBytes]
  · have hne : e - s.pos ≠ n := by omega
    have hpos : s.pos + (e - s.pos) = e := by omega
    rw [stepBody_answers hn hcap hio (frameCount_short hlen hshort), if_neg hne, hpos]
  · exact ⟨_, _, stepBody_fails hn hcap hio⟩

/-! ### Validation -/

/-- The lookahead's answer at the end of the stream (spec/20_memory.md R79). -/
theorem peekAnswer_atEnd {s : State} {e : Nat} (mode : SyncMode) (lock : Word) (hlen : s.stream.len = some e)
    (h : e ≤ s.pos) : peekAnswer mode lock s = .atEnd := by
  simp only [peekAnswer, bytesLeft, hlen, Option.map_some]
  rw [if_pos (by omega)]

/-- The lookahead's answer where a word does not fit (spec/20_memory.md R79). -/
theorem peekAnswer_short {s : State} {e : Nat} (mode : SyncMode) (lock : Word) (hlen : s.stream.len = some e)
    (h : s.pos < e) (h4 : e < s.pos + 4) : peekAnswer mode lock s = .short := by
  simp only [peekAnswer, bytesLeft, hlen, Option.map_some]
  rw [if_neg (by omega), if_pos (by omega)]

/-- The lookahead's answer where a word stands (spec/20_memory.md R79). -/
theorem peekAnswer_word {s : State} (lock : Word) (h : ∀ e, s.stream.len = some e → s.pos + 4 ≤ e) :
    peekAnswer .strictSync lock s =
      if streamWord s.stream s.pos &&& s.par.lockMask = lock then .isMatch else .noMatch := by
  simp only [peekAnswer, syncPred, beq_iff_eq]
  cases hlen : s.stream.len with
  | none => simp only [bytesLeft, hlen, Option.map_none]
  | some e =>
    have := h e hlen
    simp only [bytesLeft, hlen, Option.map_some]
    rw [if_neg (by omega), if_neg (by omega)]

/-- A frame under `STRICT_SYNC` is accepted as it is (spec/40_sync.md R170). -/
theorem acceptFrame_strict {s : State} (hm : s.syncMode = .strictSync) :
    acceptFrame s = .next { s with phase := .crcw } := by
  rw [acceptFrame, hm]

/-- What a rejected candidate leaves (spec/40_sync.md R169, spec/20_memory.md R80). -/
theorem rejectStrict_peeked (a : PeekAnswer) (s : State) :
    rejectStrict (logEvent (.rdPeekSync a) s) =
      { s with
        fb := [], pos := s.pos + s.par.resyncAdvance - s.fb.length - 4, phase := .sync
        hist := s.hist ++ [.rdPeekSync a, .strictSyncMismatch, .rdUnread] } := by
  simp only [rejectStrict, rdUnread, logEvent, List.append_assoc, List.cons_append, List.nil_append]

/-- Validation with the lookahead, by its answer (spec/40_sync.md R168). -/
theorem stepValidate_lookahead {s : State} {lock : Word} {a : PeekAnswer} (hm : s.syncMode = .strictSync)
    (hv : s.par.strictValidate = .lookahead) (hl : s.lock = some lock) (ha : peekAnswer .strictSync lock s = a) :
    stepValidate s =
      if a = .isMatch ∨ a = .atEnd then .next { s with phase := .crcw, hist := s.hist ++ [.rdPeekSync a] }
      else .next { s with
        fb := [], pos := s.pos + s.par.resyncAdvance - s.fb.length - 4, phase := .sync
        hist := s.hist ++ [.rdPeekSync a, .strictSyncMismatch, .rdUnread] } := by
  have hstep : stepValidate s =
      if a = .isMatch ∨ a = .atEnd then acceptFrame (logEvent (.rdPeekSync a) s)
      else .next (rejectStrict (logEvent (.rdPeekSync a) s)) := by
    simp only [stepValidate, hm, hv, hl, require_some, ha]
  rw [hstep, acceptFrame_strict (by rw [logEvent_syncMode, hm]), rejectStrict_peeked]
  rfl

/-- Settles O45: the frame is accepted, and locked under `INITIAL_SYNC`, or the lookahead's answer decides. -/
theorem validateAndLock : Obligations.ValidateAndLock := by
  intro s w ht hp hw
  rw [step_validate_eq ht hp]
  refine ⟨fun hm => ?_, fun hm hv => ?_, fun lock e hm hv hl hlen hend => ?_, fun lock hm hv hl hfits hmatch => ?_,
    fun lock e hm hv hl hlen hlt hshort => ?_, fun lock hm hv hl hfits hne => ?_⟩
  · simp only [stepValidate, acceptFrame, hm, hw, require_some]
  · simp only [stepValidate, acceptFrame, hm, hv]
  · exact stepValidate_lookahead hm hv hl (peekAnswer_atEnd _ _ hlen hend)
  · exact stepValidate_lookahead hm hv hl ((peekAnswer_word lock hfits).trans (if_pos hmatch))
  · exact stepValidate_lookahead hm hv hl (peekAnswer_short _ _ hlen hlt hshort)
  · exact stepValidate_lookahead hm hv hl ((peekAnswer_word lock hfits).trans (if_neg hne))

/-! ### The search -/

/-- What a search compares with: the lock, which `INITIAL_SYNC` does not read (spec/40_sync.md R161, R162). -/
def searchLock (mode : SyncMode) (lock : Word) : Word :=
  match mode with
  | .initialSync => 0#32
  | .strictSync => lock

/-- A search has the lock it compares with. -/
theorem withLock_searchLock {s : State} {lock : Word} (hl : s.syncMode = .strictSync → s.lock = some lock)
    (k : Word → Result) : withLock s k = k (searchLock s.syncMode lock) := by
  cases hm : s.syncMode with
  | initialSync => rw [withLock, hm, searchLock]
  | strictSync => rw [withLock, hm, searchLock, hl hm, require_some]

/-- A search's match at an offset is the statements' (spec/40_sync.md R161, R162). -/
theorem goodAt_iff (s : State) (lock : Word) (p : Nat) :
    GoodAt s lock p ↔ (∀ e, s.stream.len = some e → p + 4 ≤ e) ∧
      syncPred s.par.lockMask s.syncMode (searchLock s.syncMode lock) (streamWord s.stream p) = true := by
  unfold GoodAt
  cases s.syncMode <;> simp [syncPred, searchLock, syncMask]

/-- The scan of the search step, from `POS`. -/
def searchScan (s : State) (lock : Word) : Scan :=
  scanFrom s.par.lockMask s.stream s.syncMode (searchLock s.syncMode lock) (scanFuel s.stream s.pos) s.pos

/-- On an endless stream the first match, if there is one, is no later than the first offset beyond every listed byte,
unless it is at `POS`: from there on all words are the same. -/
theorem first_le_memTop {s : State} {lock : Word} {p : Nat} (hlen : s.stream.len = none) (hle : s.pos ≤ p)
    (hgood : GoodAt s lock p) (hfirst : ∀ q, s.pos ≤ q → q < p → ¬ GoodAt s lock q) :
    p = s.pos ∨ p ≤ memTop s.stream.cells + 1 := by
  by_contra hcon
  have hsame : streamWord s.stream (p - 1) = streamWord s.stream p := by
    rw [streamWord_above (by omega), streamWord_above (by omega)]
  refine hfirst (p - 1) (by omega) (by omega) ((goodAt_iff s lock _).2 ⟨fun e he => ?_, ?_⟩)
  · rw [hlen] at he
    cases he
  · rw [hsame]
    exact ((goodAt_iff s lock p).1 hgood).2

/-- The scan finds the first match from `POS` on (spec/20_memory.md R75). -/
theorem searchScan_first {s : State} {lock : Word} {p : Nat} (hle : s.pos ≤ p) (hgood : GoodAt s lock p)
    (hfirst : ∀ q, s.pos ≤ q → q < p → ¬ GoodAt s lock q) : searchScan s lock = .found p (streamWord s.stream p) := by
  obtain ⟨hfits, hpred⟩ := (goodAt_iff s lock p).1 hgood
  have hfuel : p < s.pos + scanFuel s.stream s.pos := by
    cases hlen : s.stream.len with
    | none =>
      have := first_le_memTop hlen hle hgood hfirst
      simp only [scanFuel, hlen]
      omega
    | some e =>
      have := hfits e hlen
      simp only [scanFuel, hlen]
      omega
  refine scanFrom_first hle hfuel hfits hpred fun q h1 h2 => ?_
  by_contra hq
  exact hfirst q h1 h2 ((goodAt_iff s lock q).2 ⟨fun e he => by have := hfits e he; omega, by simpa using hq⟩)

/-- Without a match from `POS` on the scan finds none. -/
theorem searchScan_none {s : State} {lock : Word} (hnone : ∀ p, s.pos ≤ p → ¬ GoodAt s lock p) (p : Nat) (w : Word) :
    searchScan s lock ≠ .found p w := by
  intro h
  obtain ⟨hle, rfl, hpred, hfits, -⟩ := scanFrom_found h
  exact hnone p hle ((goodAt_iff s lock p).2 ⟨hfits, hpred⟩)

/-- The reader's answer where the scan finds a word (spec/20_memory.md R75). -/
theorem rdSync_found {s : State} {lock : Word} {p : Nat} {w : Word} (hio : s.io.headD false = false)
    (h : searchScan s lock = .found p w) :
    rdSync s.syncMode (searchLock s.syncMode lock) s =
      some (.word w, { s with pos := p + 4, io := s.io.tail, hist := s.hist ++ [.rdSync (.word w)] }) := by
  rw [searchScan] at h
  rw [rdSync, ioFails, hio, if_neg (by decide), h]
  rfl

/-- The reader's answer where a stream of length `e` has no match from `POS` on (spec/20_memory.md R75). -/
theorem rdSync_none_finite {s : State} {lock : Word} {e : Nat} (hio : s.io.headD false = false)
    (hlen : s.stream.len = some e) (hnone : ∀ p, s.pos ≤ p → ¬ GoodAt s lock p) :
    rdSync s.syncMode (searchLock s.syncMode lock) s =
      some (.endOfStream, { s with pos := e, io := s.io.tail, hist := s.hist ++ [.rdSync .endOfStream] }) := by
  rcases rdSync_cases s.syncMode (searchLock s.syncMode lock) s with
    ⟨hf, -⟩ | ⟨-, p, w, hscan, -⟩ | ⟨-, -, h⟩ | ⟨-, hendless, -⟩
  · rw [ioFails, hio] at hf
    cases hf
  · exact absurd hscan (searchScan_none hnone p w)
  · rw [h, hlen, Option.getD_some]
  · rw [hlen] at hendless
    cases hendless

/-- The reader never answers where an endless stream has no match from `POS` on (spec/40_sync.md R160). -/
theorem rdSync_none_endless {s : State} {lock : Word} (hio : s.io.headD false = false)
    (hlen : s.stream.len = none) (hnone : ∀ p, s.pos ≤ p → ¬ GoodAt s lock p) :
    rdSync s.syncMode (searchLock s.syncMode lock) s = none := by
  rcases rdSync_cases s.syncMode (searchLock s.syncMode lock) s with
    ⟨hf, -⟩ | ⟨-, p, w, hscan, -⟩ | ⟨-, hscan, -⟩ | ⟨-, -, h⟩
  · rw [ioFails, hio] at hf
    cases hf
  · exact absurd hscan (searchScan_none hnone p w)
  · obtain ⟨e, he, -⟩ := scanFrom_end hscan
    rw [hlen] at he
    cases he
  · exact h

/-- The reader's answer where the byte source fails (spec/20_memory.md R82). -/
theorem rdSync_fails {s : State} (hio : s.io.headD false = true) (mode : SyncMode) (lock : Word) :
    rdSync mode lock s = some (.ioError, logEvent (.rdSync .ioError) (failIo s)) := by
  rw [rdSync, ioFails, hio, if_pos rfl]

/-- Settles O43: by what the reader answers: the first match, the end of the stream, nothing, or a failure. -/
theorem searchFindsFirst : Obligations.SearchFindsFirst := by
  intro s lock ht hp hl
  rw [step_sync_eq ht hp, stepSync, withLock_searchLock hl]
  refine ⟨fun p hio hle hgood hfirst => ?_, fun e hio hlen hnone => ?_, fun hio hlen hnone => ?_, fun hio => ?_⟩
  · rw [rdSync_found hio (searchScan_first hle hgood hfirst)]
  · rw [rdSync_none_finite hio hlen hnone]
  · rw [rdSync_none_endless hio hlen hnone]
  · rw [rdSync_fails hio]
    exact ⟨_, _, rfl⟩

end Sys2Proof.Machine
end

section
/-! PROOFS. The host between commands, and the tables: the dequantizer's entries and worked values, closed
computations on R6's values, and the number of subbands as a function of the header word. -/

namespace Sys2Proof.Machine

open Sys2Proof

/-! ### The host between commands -/

/-- A step with an action pending is that action (spec/70_reset_and_hazards.md R410). -/
theorem step_hostAction {s : State} {a : HostAction} {rest : List HostAction} (ht : s.top ≠ .busy)
    (hh : s.host = a :: rest) : step s = .next (hostAction a { s with host := rest }) := by
  rw [step_idle ht, hostStep, hh]

/-- A header word leaves the pending host actions (spec/41_header.md R190). -/
theorem headerWord_host (f : HdrFields) (s : State) : (headerWord f s).host = s.host := by
  rcases headerWord_shape f s with ⟨r, g, h⟩ | ⟨e, r, h⟩ <;> rw [h]
  exact raise_host _ _

/-- A step of a running command leaves the pending host actions (log 2). -/
theorem step_busy_host {s t : State} (ht : s.top = .busy) (h : step s = .next t) : t.host = s.host := by
  cases hp : s.phase with
  | sync => rcases step_sync_next ht hp h with ⟨w, p, rfl⟩ | ⟨p, f, a, rfl⟩ <;> simp
  | header =>
    obtain ⟨w, -, -, rfl⟩ := step_header_next ht hp h
    exact headerWord_host _ s
  | body => obtain ⟨n, -, ⟨-, rfl⟩ | ⟨-, -, rfl⟩ | ⟨-, -, rfl⟩⟩ := step_body_next ht hp h <;> simp
  | validate =>
    rcases step_validate_next ht hp h with ⟨-, w, -, rfl⟩ | ⟨-, l, rfl, -⟩ | ⟨-, a, rfl⟩ <;> rfl
  | crcw => rcases step_crcw_next ht hp h with ⟨-, rfl⟩ | ⟨-, rfl | ⟨w, -, -, rfl⟩⟩ <;> simp
  | vbr =>
    rcases step_vbr_next ht hp h with
      ⟨-, r, -, ⟨p, rfl⟩ | rfl⟩ | ⟨-, -, rfl⟩ | ⟨p, rfl⟩ | ⟨-, -, rfl⟩ | ⟨-, rfl⟩ <;> simp
  | construct =>
    obtain ⟨m, b, n, -, -, -, rfl⟩ := step_construct_next ht hp h
    rfl
  | alloc =>
    obtain ⟨n, -, ⟨-, h⟩ | ⟨-, h | h | h⟩⟩ := step_alloc_next ht hp h <;> rw [h]
    · exact raise_host _ _
    · exact raise_host _ _
  | scf =>
    obtain ⟨n, -, ⟨-, h⟩ | ⟨-, h | h | h⟩⟩ := step_scf_next ht hp h <;> rw [h]
    exact raise_host _ _
  | gate => rcases step_gate_next ht hp h with rfl | rfl | rfl <;> simp
  | samples =>
    obtain ⟨n, -, ⟨-, h⟩ | ⟨-, h⟩ | ⟨-, -, rfl⟩ | ⟨-, k, r, h⟩⟩ := step_samples_next ht hp h
    · obtain ⟨m, -, ⟨-, rfl⟩ | ⟨-, rfl⟩⟩ := endRepetition_next h <;> simp
    · rw [finishSampleSlot_frame h]
    · simp
    · rw [storeSample_frame h]
  | done => rw [step_done_next ht hp h]; rfl

/-- A command other than `RESET` in `HALTED` (spec/46_frame_loop_host.md R348). -/
theorem hostAction_halted {s : State} {a : HostAction} (ht : s.top = .halted)
    (ha : a = .decodeFrame ∨ ∃ c, a = .setChannels c) : hostAction a s = refuseHalted s := by
  have hidle : s.top ≠ .idle := by simp [ht]
  rcases ha with rfl | ⟨c, rfl⟩
  · exact if_neg hidle
  · exact if_neg hidle

/-- The host reads nothing while a command runs (spec/20_memory.md R88). -/
theorem hostView_busy {s : State} (ht : s.top = .busy) : hostView s = none := if_pos ht

/-- Settles O12: each host action by itself, a running command phase by phase, and the host's view field by field. -/
theorem commandsOutOfPlace : Obligations.CommandsOutOfPlace := by
  refine ⟨fun s a rest ht hh ha => ?_, fun s t => step_busy_host, fun s ht hh => ?_,
    fun s bytes endless p rest ht hh => ?_, fun s p rest ht hh => step_hostAction ht hh,
    fun s => ⟨hostView_busy, fun ht => ?_⟩⟩
  · have hbusy : s.top ≠ .busy := by simp [ht]
    rw [step_hostAction hbusy hh, hostAction_halted (s := { s with host := rest }) ht ha, refuseHalted]
  · rw [step_idle ht, hostStep, hh]
  · refine ⟨memOfBytes bytes 0, step_hostAction ht hh, memOfBytes_wf bytes 0, fun a ha => ?_, fun a ha => ?_⟩
    · simp [memRead_memOfBytes, ha]
    · simp [memRead_memOfBytes, ha, unlistedByte]
  · exact ⟨_, if_neg ht, rfl, rfl, rfl, rfl, rfl, rfl, rfl, rfl, rfl, rfl, rfl, rfl, rfl, rfl⟩

/-! ### The dequantizer's tables -/

/-- The rounded entries of `FACTOR` and `OFFSET` that rules read are the nearest to the exact quotients, code by code
(spec/20_memory.md R94). -/
theorem quotients_nearest : ∀ a : BitVec 4, a ≠ 0#4 → a ≠ 15#4 →
    nearestQuotient (factor Config.defaultParams a) false 2 (2 ^ (a.toNat + 1) - 1) = true ∧
    nearestQuotient (offset Config.defaultParams a) true (2 ^ (a.toNat + 1) - 2) (2 ^ (a.toNat + 1) - 1) = true := by
  decide +kernel

/-- The entries of `SCALE` below 63 are the nearest to the exact powers, index by index (spec/20_memory.md R93). -/
theorem scale_nearest :
    ∀ i : BitVec 6, i ≠ 63#6 → nearestThirdPower (scale Config.defaultParams i) i.toNat = true := by
  decide +kernel

/-- The exact entries of `FACTOR` and `OFFSET`, code by code (spec/20_memory.md R94). -/
theorem quotients_exact : ∀ a : BitVec 4, a ≠ 0#4 → a ≠ 15#4 →
    factorTable[a.toNat]?.getD 0 = 2 / ((2 : Rat) ^ (a.toNat + 1) - 1) ∧
    offsetTable[a.toNat]?.getD 0 = (2 - (2 : Rat) ^ (a.toNat + 1)) / ((2 : Rat) ^ (a.toNat + 1) - 1) := by
  decide +kernel

/-- In exact rationals the dequantizer multiplies and adds (spec/45_samples_sink.md R306, R313). -/
theorem deq_exact {p : Params} (hf : p.format = .exact) (raw : BitVec 15) (a : BitVec 4) :
    deq p raw a = .number (raw.toNat * p.factor[a.toNat]?.getD 0 + p.offset[a.toNat]?.getD 0) := by
  simp only [deq, factor, offset, hf, rnd, sampleMul, sampleAdd, sampleValue, exactProduct_eq, exactSum_eq]

/-! ### The number of subbands -/

/-- The mode of two bits is the statements' (spec/30_encoding.md R115). -/
theorem modeOf_eq : ∀ m : BitVec 2, modeOf m = specMode m := by decide

/-- R203's function is the statements', where the sample rate is no reserved one (spec/41_header.md R203). -/
theorem subbandsRule_eq (m : Mode) :
    ∀ (br : BitVec 4) (sr : BitVec 2), sr ≠ 3#2 → subbandsRule m br.toNat sr.toNat = specSubbands m br sr := by
  cases m <;> decide

/-- The bits of a version (spec/30_encoding.md R113). -/
theorem versionBitsOf_eq {bits : BitVec 2} {v : Version} (h : SpecVersion bits v) : versionBitsOf v = bits := by
  rcases h with ⟨rfl, rfl⟩ | ⟨rfl, rfl⟩ | ⟨rfl, rfl⟩ <;> rfl

/-- The bits of a layer (spec/30_encoding.md R114). -/
theorem layerBitsOf_eq {bits : BitVec 2} {l : Layer} (h : SpecLayer bits l) : layerBitsOf l = bits := by
  rcases h with ⟨rfl, rfl⟩ | ⟨rfl, rfl⟩ | ⟨rfl, rfl⟩ <;> rfl

/-- A configured table of header words is read at the header word itself (log 15). -/
theorem subbandsL23_table {p : Params} {rows : List SubbandRow} {otherwise : Nat} {h : Word} {v : Version} {l : Layer}
    (hp : p.subbandsL23 = .table rows otherwise) (hsync : h &&& syncMask = syncMask)
    (hv : SpecVersion (h.extractLsb' 19 2) v) (hl : SpecLayer (h.extractLsb' 17 2) l) :
    subbandsL23 p v l (headerFieldsOf h).tail =
      ((rows.find? fun row => h &&& row.mask == row.bits).map SubbandRow.count).getD otherwise := by
  have hword : encodeHeader (versionBitsOf v) (layerBitsOf l) (headerFieldsOf h).tail = h := by
    rw [versionBitsOf_eq hv, layerBitsOf_eq hl]
    exact encodeHeader_headerFieldsOf ((syncBits_iff h).2 hsync)
  simp only [subbandsL23, hp, hword]

/-- Settles O35: the tables entry by entry, exact dequantization by its arithmetic, the subbands by the header word. -/
theorem tablesRounded : Obligations.TablesRounded := by
  refine ⟨quotients_nearest, scale_nearest, by decide +kernel, fun p raw a hf hfac hoff h0 h15 => ?_,
    fun v l t hrate => ?_, fun p rows otherwise h v l hp hsync hv hl => ?_⟩
  · obtain ⟨hfactor, hoffset⟩ := quotients_exact a h0 h15
    rw [deq_exact hf, hfac, hoff]
    simp only [Config.defaultParams, hfactor, hoffset]
    congr 1
    ring
  · rw [← modeOf_eq, ← subbandsRule_eq _ _ _ hrate]
    rfl
  · rw [subbandsL23_table hp hsync hv hl, List.headD_eq_head?_getD, List.head?_map, List.head?_filter]
    rfl

/-! ### Worked values -/

/-- Settles O33: closed computations, the checksums bit by bit and the samples in exact arithmetic with one rounding an
operation. -/
theorem workedValues : Obligations.WorkedValues := by
  unfold Obligations.WorkedValues
  decide +kernel

end Sys2Proof.Machine
end

section
/-! PROOFS. The encoding: what the decoder accepts re-encodes to the bits read, and which row of the header table a
word is. -/

namespace Sys2Proof.Machine

open Sys2Proof

/-- Settles O1: every family of elements is read back from its own bits. -/
theorem decodeEncodeAgree : Obligations.DecodeEncodeAgree := fun _ hw => (wf_roundTrips hw).2

/-! ### What the decoder accepts -/

/-- An element is well formed, has format `k`, and its bits are the low bits of `w`. -/
def Reencodes (k : Kind) (w : Word) (i : Instr) : Prop :=
  i.wf = true ∧ i.kind = k ∧ (encode i).toNat = w.toNat % 2 ^ k.width

/-- An element whose bits are the low bits of `w`, as many as its format has, re-encodes to them. -/
theorem Reencodes.ofLowBits {k : Kind} {w : Word} {i : Instr} (hk : k.width ≤ 32)
    (h : i.wf = true ∧ i.kind = k ∧ encode i = (w.extractLsb' 0 k.width).zeroExtend 32) : Reencodes k w i := by
  obtain ⟨hwf, hkind, he⟩ := h
  refine ⟨hwf, hkind, ?_⟩
  have hlt := lt_of_lt_of_le (w.extractLsb' 0 k.width).isLt (Nat.pow_le_pow_right two_pos hk)
  rw [he, BitVec.toNat_setWidth, Nat.mod_eq_of_lt hlt, BitVec.extractLsb'_toNat, Nat.shiftRight_zero]

/-- The bits that name a version (spec/30_encoding.md R113). -/
theorem versionBits_cases : ∀ v : BitVec 2, v ≠ 0b01#2 → v = 0b11#2 ∨ v = 0b10#2 ∨ v = 0b00#2 := by decide

/-- The bits that name a layer (spec/30_encoding.md R114). -/
theorem layerBits_cases : ∀ l : BitVec 2, l ≠ 0b00#2 → l = 0b11#2 ∨ l = 0b10#2 ∨ l = 0b01#2 := by decide

/-- The nine rows without a fault are well formed where the rate and the bitrate are (spec/41_header.md R212 to
R220). -/
theorem headerRow_wf {v l : BitVec 2} {t : HdrTail} (hv : v ≠ 0b01#2) (hl : l ≠ 0b00#2) (hr : validRate t = true)
    (hb : validBitrate t = true) : (headerRow v l t).wf = true := by
  rcases versionBits_cases v hv with rfl | rfl | rfl <;> rcases layerBits_cases l hl with rfl | rfl | rfl <;>
    simp [headerRow, Instr.wf, hr, hb]

/-- The row that the tests select admits the fields they have tested (spec/30_encoding.md R124). -/
theorem headerInstr_wf (f : HdrFields) : (headerInstr f).wf = true := by
  unfold headerInstr
  split_ifs with hv hl hr h0 h15
  · rfl
  · simp [Instr.wf, validVersion, hv]
  · simp [Instr.wf, validVersion, validLayer, hv, hl, hr]
  · simp [Instr.wf, validVersion, validLayer, validRate, hv, hl, hr, h0]
  · simp [Instr.wf, validVersion, validLayer, validRate, hv, hl, hr, h15]
  · exact headerRow_wf hv hl (by simp [validRate, hr]) (by simp [validBitrate, h0, h15])

/-- Header words (spec/30_encoding.md R111, R112). -/
theorem decodeHeader_reencodes {w : Word} {i : Instr} (h : decodeHeader w = .ok i) : Reencodes .h32 w i := by
  obtain ⟨hf, hsync⟩ := decodeHeader_ok h
  obtain ⟨hk, he⟩ := encode_header hf
  rw [decodeHeader, if_pos hsync] at h
  refine ⟨Except.ok.inj h ▸ headerInstr_wf _, hk, ?_⟩
  rw [he, encodeHeader_headerFieldsOf hsync]
  exact (Nat.mod_eq_of_lt w.isLt).symm

/-- Allocation codes (spec/30_encoding.md R117). -/
theorem alloc_encodes {i : Instr} {a : BitVec 4} (h : i.allocCode = some a) :
    i.wf = true ∧ i.kind = .a4 ∧ encode i = a.zeroExtend 32 := by
  cases i <;> simp only [Instr.allocCode, Option.some.injEq, reduceCtorEq] at h <;> subst h <;> exact ⟨rfl, rfl, rfl⟩

/-- Scale-factor indices: `SCF` never holds 63 (spec/30_encoding.md R118, R124). -/
theorem decodeScf_encodes (x : BitVec 6) :
    (decodeScf x).wf = true ∧ (decodeScf x).kind = .s6 ∧ encode (decodeScf x) = x.zeroExtend 32 := by
  unfold decodeScf
  split_ifs with h
  · subst h
    exact ⟨rfl, rfl, rfl⟩
  · exact ⟨by simp [Instr.wf, h], rfl, rfl⟩

/-- Only the lengths from 2 to 15 are a sample code's (spec/30_encoding.md R119). -/
theorem decodeSample_range {n : Nat} {w : Word} {i : Instr} (h : decodeSample n w = .ok i) : 2 ≤ n ∧ n ≤ 15 := by
  unfold decodeSample at h
  split at h
  case h_15 => cases h
  all_goals decide

/-- Sample codes (spec/30_encoding.md R119). -/
theorem sample_encodes {i : Instr} {n : Nat} {r : BitVec 15} (h : i.sampleCode = some (n, r)) :
    i.wf = true ∧ i.kind = .q n ∧ encode i = r.zeroExtend 32 := by
  cases i <;> simp only [Instr.sampleCode, Option.some.injEq, Prod.mk.injEq, reduceCtorEq] at h <;>
    obtain ⟨rfl, rfl⟩ := h <;> exact ⟨rfl, rfl, (BitVec.setWidth_setWidth (by decide)).symm⟩

/-- The tags (spec/30_encoding.md R121, R122). -/
theorem decodeTag_reencodes {w : Word} {i : Instr} (h : decodeTag w = .ok i) : Reencodes .t32 w i := by
  unfold decodeTag at h
  split_ifs at h with hx hv <;> cases h
  · subst hx
    exact ⟨rfl, rfl, rfl⟩
  · subst hv
    exact ⟨rfl, rfl, rfl⟩

/-- Settles O2: format by format; a header word and a tag are the whole word, the other elements its low bits. -/
theorem decodedWordsReencode : Obligations.DecodedWordsReencode := by
  intro k w i h
  cases k with
  | h32 => exact decodeHeader_reencodes h
  | c16 =>
    cases h
    exact Reencodes.ofLowBits (by decide) ⟨rfl, rfl, rfl⟩
  | a4 =>
    cases h
    exact Reencodes.ofLowBits (by decide) (alloc_encodes (decodeAlloc_code _))
  | s6 =>
    cases h
    exact Reencodes.ofLowBits (by decide) (decodeScf_encodes _)
  | q n =>
    obtain ⟨h2, h15⟩ := decodeSample_range h
    obtain ⟨j, hj, hcode⟩ := decodeSample_code h2 h15 w
    obtain rfl : j = i := Except.ok.inj (hj.symm.trans h)
    obtain ⟨hwf, hkind, he⟩ := sample_encodes hcode
    exact Reencodes.ofLowBits (h15.trans (by decide)) ⟨hwf, hkind, he.trans (BitVec.setWidth_setWidth (by omega))⟩
  | t32 => exact decodeTag_reencodes h

/-! ### Which row a header word is -/

/-- The version and layer bits of a header word stand side by side (spec/30_encoding.md R111). -/
theorem versionLayerBits_append (w : Word) : w.extractLsb' 17 4 = w.extractLsb' 19 2 ++ w.extractLsb' 17 2 :=
  (BitVec.extractLsb'_append_extractLsb'_eq_extractLsb' (x := w) (start₁ := 17) (len₁ := 2) (start₂ := 19) (len₂ := 2)
    rfl).symm

/-- Settles O4: the decoder's tests are the statement's, one by one; past the five faults the version and layer bits
leave nine rows. -/
theorem headerRowByBits : Obligations.HeaderRowByBits := by
  intro w
  by_cases hs : w &&& 0xFFE00000#32 = 0xFFE00000#32
  · rw [decodeHeader, if_pos ((syncBits_iff w).2 hs), if_neg (not_not.2 hs)]
    simp only [headerInstr, apply_ite (Except.ok (ε := Reject))]
    refine ite_congr rfl (fun _ => rfl) fun hversion => ite_congr rfl (fun _ => rfl) fun hlayer => ?_
    refine ite_congr rfl (fun _ => rfl) fun _ => ite_congr rfl (fun _ => rfl) fun _ => ?_
    refine ite_congr rfl (fun _ => rfl) fun _ => ?_
    rw [versionLayerBits_append]
    rcases versionBits_cases (w.extractLsb' 19 2) hversion with hv | hv | hv <;>
      rcases layerBits_cases (w.extractLsb' 17 2) hlayer with hl | hl | hl <;>
      (rw [hv, hl, show (headerFieldsOf w).versionBits = _ from hv, show (headerFieldsOf w).layerBits = _ from hl]; rfl)
  · rw [decodeHeader, if_neg (mt (syncBits_iff w).1 hs)]
    exact (if_pos hs).symm

/-- Settles O5: closed computations. -/
theorem specWordsDecode : Obligations.SpecWordsDecode := by
  unfold Obligations.SpecWordsDecode
  decide

/-! ### The header rows with a fault -/

/-- The version of the statements is the model's (spec/30_encoding.md R113). -/
theorem versionOf_spec {bits : BitVec 2} {v : Version} (h : SpecVersion bits v) : versionOf bits = some v := by
  rcases h with ⟨rfl, rfl⟩ | ⟨rfl, rfl⟩ | ⟨rfl, rfl⟩ <;> rfl

/-- The layer of the statements is the model's (spec/30_encoding.md R114). -/
theorem layerOf_spec {bits : BitVec 2} {l : Layer} (h : SpecLayer bits l) : layerOf bits = some l := by
  rcases h with ⟨rfl, rfl⟩ | ⟨rfl, rfl⟩ | ⟨rfl, rfl⟩ <;> rfl

/-- Layer bits 00 name no layer (spec/30_encoding.md R114). -/
theorem layerOf_reserved : layerOf 0b00#2 = none := by decide

/-- A set bit is the model's. -/
theorem decide_set : ∀ b : BitVec 1, decide (b = 1#1) = bit b := by decide

/-- A clear bit is the model's (spec/41_header.md R193). -/
theorem decide_clear : ∀ b : BitVec 1, decide (b = 0#1) = !bit b := by decide

/-- The header registers of the statements are those the model writes (spec/41_header.md R191 to R200). -/
theorem specHeader_eq (v : Version) (l : Layer) (t : HdrTail) :
    specHeader v l t =
      { version := some v
        layer := some l
        prot := some (!bit t.protection)
        bitrateIndex := some t.bitrateIndex
        srIndex := some t.sampleRateIndex
        padding := some (bit t.padding)
        mode := some (modeOf t.channelMode)
        modeExt := some t.modeExtension
        copyright := some (bit t.copyright)
        original := some (bit t.original) } := by
  simp only [specHeader, decide_set, decide_clear, modeOf_eq]

/-- A header word of a reserved layer (spec/41_header.md R222). -/
theorem headerWord_reservedLayer {f : HdrFields} {v : Version} (s : State) (hv : versionOf f.versionBits = some v)
    (hl : layerOf f.layerBits = none) :
    headerWord f s = raise (.unsupported .reservedLayer) { s with hdr := { s.hdr with version := some v } } := by
  rw [headerWord, hv]
  simp only [hl]

section Faults
variable {f : HdrFields} {v : Version} {l : Layer} (s : State) (hv : versionOf f.versionBits = some v)
  (hl : layerOf f.layerBits = some l)
include hv hl

/-- A header word of a reserved sample rate (spec/41_header.md R223). -/
theorem headerWord_badRate (hr : f.tail.sampleRateIndex = 3#2) :
    headerWord f s =
      raise (.unsupported .reservedSampleRate)
        (writeBeforeRate f.tail { s with hdr := { s.hdr with version := some v, layer := some l } }) := by
  rw [headerWord, hv]
  simp only [hl, hr, if_true]

/-- A header word of a refused bitrate index has all its fields written (spec/41_header.md R224, R225). -/
theorem headerWord_badBitrate (hr : f.tail.sampleRateIndex ≠ 3#2) (hb : badBitrate f.tail.bitrateIndex = true) :
    headerWord f s = raise (.refused .badBitrateIndex) { s with hdr := specHeader v l f.tail } := by
  rw [headerWord, hv]
  simp only [hl, hr, hb, if_false, if_true, writeAfterRate, writeBeforeRate, specHeader_eq]

end Faults

/-- Settles O15: the header word's tests in their order, each row failing its own. -/
theorem headerFaultsRaise : Obligations.HeaderFaultsRaise := by
  refine ⟨fun l t s => rfl, fun vb v t s hv => ?_, fun vb lb v l t s hv hl hr => ?_,
    fun vb lb v l t s hv hl hr h0 => ?_, fun vb lb v l t s hv hl hr h15 => ?_⟩ <;> rw [exec_header rfl]
  · rw [headerWord_reservedLayer s (versionOf_spec hv) layerOf_reserved]
  · rw [headerWord_badRate s (versionOf_spec hv) (layerOf_spec hl) hr, writeBeforeRate, decide_clear]
  · rw [headerWord_badBitrate s (versionOf_spec hv) (layerOf_spec hl) hr (by rw [h0]; rfl)]
  · rw [headerWord_badBitrate s (versionOf_spec hv) (layerOf_spec hl) hr (by rw [h15]; rfl)]

/-! ### The bound -/

/-- The bound by the bits of the mode (spec/30_encoding.md R115, spec/41_header.md R204). -/
theorem boundOf_modeOf (m ext : BitVec 2) (n : Nat) :
    boundOf (modeOf m) ext n = if m = 1#2 then min (4 + 4 * ext.toNat) n else 0 := by
  have hjoint : modeOf m = .jointStereo ↔ m = 1#2 := by
    revert m
    decide
  simp only [boundOf, hjoint]

/-- The number of subbands where the parameter gives no more than 32 (spec/41_header.md R201, R203). -/
theorem subbandCountOf_le {p : Params} {v : Version} {l : Layer} {t : HdrTail} (h : subbandsL23 p v l t ≤ 32) :
    subbandCountOf p v l t ≤ 32 := by
  cases l with
  | one => exact le_refl 32
  | two => exact h
  | three => exact h

/-- Settles O18: the bound by the mode's bits; a clamp to 32 never acts, as `4 + 4 * 3` is 16. -/
theorem boundWithinCount : Obligations.BoundWithinCount := by
  intro p v l t hsub
  refine ⟨_, _, rfl, rfl, boundOf_modeOf .., ?_, subbandCountOf_le (hsub t), ?_⟩
  · rw [boundOf_modeOf]
    split_ifs
    · exact min_le_right _ _
    · exact Nat.zero_le _
  · rintro rfl
    have hfits : 4 + 4 * t.modeExtension.toNat ≤ 32 := by omega
    exact ⟨rfl, by rw [boundOf_modeOf, subbandCountOf, min_eq_left hfits]⟩

end Sys2Proof.Machine
end

section
/-! PROOFS. The law of locked fields: the strict predicate of `SyncPred` bit by bit, and what a match of a lock keeps
(spec/40_sync.md R161, R162, R172). -/

namespace Sys2Proof.Machine

open Sys2Proof

/-- The initial predicate is the sync bits alone, whatever the mask and the lock (spec/40_sync.md R161). -/
theorem syncPred_initial (mask lock w : Word) :
    syncPred mask .initialSync lock w = true ↔ w &&& syncMask = syncMask :=
  beq_iff_eq

/-- The strict predicate is the equality of the masked word with the lock (spec/40_sync.md R162). -/
theorem syncPred_strict (mask lock w : Word) : syncPred mask .strictSync lock w = true ↔ w &&& mask = lock :=
  beq_iff_eq

/-- Two words have the same masked value exactly where they agree at every bit of the mask (spec/40_sync.md R172). -/
theorem masked_eq_iff (mask h1 h2 : Word) :
    h1 &&& mask = h2 &&& mask ↔ ∀ b, b < 32 → mask.getLsbD b = true → h1.getLsbD b = h2.getLsbD b := by
  have hbit : ∀ x y m : Bool, (x && m) = (y && m) ↔ (m = true → x = y) := by decide
  simp only [BitVec.eq_of_getLsbD_eq_iff, BitVec.getLsbD_and, hbit]

/-- A word matches the lock taken from another exactly where no bit of the mask differs (spec/40_sync.md R172). -/
theorem syncPred_strict_taken (mask h1 h2 : Word) :
    syncPred mask .strictSync (h1 &&& mask) h2 = true ↔
      ∀ b, b < 32 → mask.getLsbD b = true → h1.getLsbD b = h2.getLsbD b := by
  rw [syncPred_strict, eq_comm, masked_eq_iff]

/-- The bits that a masked word has, the word has. -/
theorem bits_of_masked {w mask bits : Word} (h : (w &&& mask) &&& bits = bits) : w &&& bits = bits := by
  calc w &&& bits = w &&& (w &&& mask &&& bits) := by rw [h]
    _ = w &&& mask &&& bits := by rw [← BitVec.and_assoc, ← BitVec.and_assoc, BitVec.and_self]
    _ = bits := h

/-- Settles O46: the strict predicate bit by bit; a lock's sync bits are its word's, and a mask without the fields that
vary compares none of them. -/
theorem lockLaw : Obligations.LockLaw := by
  intro mask
  refine ⟨syncPred_strict mask, fun h1 h2 => ⟨syncPred_strict_taken mask h1 h2, masked_eq_iff mask h1 h2⟩,
    fun lock w hsync hmatch => ?_, fun h1 h2 hstrip hsame => ?_⟩
  · obtain rfl := (syncPred_strict mask lock w).1 hmatch
    exact (syncPred_initial mask _ w).2 (bits_of_masked hsync)
  · refine (syncPred_strict_taken mask h1 h2).2 fun b hb hmask => hsame b hb fun hvar => ?_
    rw [hstrip b hvar] at hmask
    cases hmask

end Sys2Proof.Machine
end

section
/-! PROOFS. The header rows without a fault, what any header row leaves alone, and the checksum field. -/

namespace Sys2Proof.Machine

open Sys2Proof

/-! ### The checksum field -/

/-- Settles O20: the seed is the statement's. -/
theorem crcwResult : Obligations.CrcwResult := by
  intro field h s hh
  simp only [exec, execCrcw, hh, require_some, crcSeed_eq]

/-! ### What a header row leaves alone -/

/-- Settles O16: a header word completes or raises, and each writes its own registers. -/
theorem headerFrame : Obligations.HeaderFrame := by
  intro i f s t hf h
  rw [exec_header hf] at h
  obtain rfl := Host.Outcome.next.inj h
  rcases headerWord_cases f s with ⟨v, l, hv, hl, hr, hb⟩ | ⟨e, r, he, htop, -⟩
  · rw [headerWord_good s hv hl hr hb]
    exact ⟨.inl rfl, fun _ => rfl⟩
  · rw [he, raise_eq, htop]
    exact ⟨.inr rfl, fun _ => rfl⟩

/-! ### The geometry as the statements write it -/

/-- The padding slot is the value of its bit (spec/41_header.md R196, R205, R206). -/
theorem padding_toNat : ∀ b : BitVec 1, (if bit b then 1 else 0) = b.toNat := by decide

/-- Halving the quotient for the two low-sampling-frequency versions (spec/41_header.md R206). -/
theorem lsf_halved (v : Version) (x : Nat) :
    (if isLsf v then x / 2 else x) = x / (if v = .mpeg1 then 1 else 2) := by
  cases v with
  | mpeg1 => exact (Nat.div_one x).symm
  | mpeg2Lsf | mpeg25Lsf => rfl

/-- The frame length is the statements' (spec/41_header.md R205, R206). -/
theorem fullSizeOf_eq (p : Params) (v : Version) (l : Layer) (t : HdrTail) :
    fullSizeOf p v l t.bitrateIndex t.sampleRateIndex (bit t.padding) = specFull p v l t := by
  cases l with
  | one => simp only [fullSizeOf, specFull, padding_toNat, Nat.mul_comm]
  | two | three => simp only [fullSizeOf, specFull, padding_toNat, lsf_halved]

/-- The number of subbands is the statements' (spec/41_header.md R201, R203). -/
theorem subbandCountOf_eq (p : Params) (v : Version) (l : Layer) (t : HdrTail) :
    subbandCountOf p v l t = if l = .one then 32 else subbandsL23 p v l t := by
  cases l <;> rfl

/-- The bound of the statements is the model's (spec/41_header.md R204). -/
theorem specBound_eq (m : Mode) (ext : BitVec 2) (n : Nat) : specBound m ext n = boundOf m ext n := by
  rw [specBound, boundOf, min_def]

/-- `SLOT_COUNT` is the statements' (spec/41_header.md R205, R207). -/
theorem slotCountOf_eq (p : Params) (v : Version) (l : Layer) (t : HdrTail) (m : Mode) :
    slotCountOf p v l t.bitrateIndex t.sampleRateIndex (bit t.padding) m (!bit t.protection) =
      if l = .three then (specFull p v l t : Int) - specSide v m - (if t.protection = 0#1 then 2 else 0) - 4
      else 0 := by
  cases l with
  | one | two => rfl
  | three =>
    simp only [slotCountOf, fullSizeOf_eq, ← decide_clear, decide_eq_true_eq, if_true, ← xingOffset_eq, xingOffset]

/-- The geometry registers of the statements are those the model writes (spec/41_header.md R201 to R207). -/
theorem geometryOf_eq (p : Params) (v : Version) (l : Layer) (t : HdrTail) :
    geometryOf p v l t = specGeometry p v l t := by
  simp only [geometryOf, specGeometry, frameSizeOf, fullSizeOf_eq, subbandCountOf_eq, slotCountOf_eq,
    specBound_eq, modeOf_eq]

/-- The geometry of Layer I: 32 subbands, which the bound never passes, and no slots (spec/41_header.md R201, R204,
R205). -/
theorem specGeometry_layerOne (p : Params) (v : Version) (t : HdrTail) :
    specGeometry p v .one t =
      { subbandCount := some 32
        bound := some (if t.channelMode = 1#2 then 4 + 4 * t.modeExtension.toNat else 0)
        frameSize := some
          (4 * (12 * bitrate p v .one t.bitrateIndex / freq p v t.sampleRateIndex + t.padding.toNat) - 4)
        slotCount := some 0 } := by
  have hfits : 4 + 4 * t.modeExtension.toNat ≤ 32 := by omega
  simp only [specGeometry, specFull, specBound_eq, ← modeOf_eq, boundOf_modeOf, min_eq_left hfits, if_true,
    reduceCtorEq, if_false]

/-! ### The header rows without a fault -/

/-- The version and layer bits of a row without a fault (spec/41_header.md R212 to R220). -/
theorem HeaderOf.bits {i : Instr} {v : Version} {l : Layer} {t : HdrTail} (h : HeaderOf i v l t) :
    ∃ vb lb, i.headerFields = some ⟨vb, lb, t⟩ ∧ SpecVersion vb v ∧ SpecLayer lb l := by
  rcases h with h | h | h | h | h | h | h | h | h <;> obtain ⟨rfl, rfl, rfl⟩ := h <;>
    exact ⟨_, _, rfl, by simp [SpecVersion], by simp [SpecLayer]⟩

/-- A row without a fault has a valid sample rate and bitrate (spec/41_header.md R195, R202). -/
theorem HeaderOf.valid {i : Instr} {v : Version} {l : Layer} {t : HdrTail} (h : HeaderOf i v l t)
    (hw : i.wf = true) : t.sampleRateIndex ≠ 3#2 ∧ badBitrate t.bitrateIndex = false := by
  have hvalid : (validRate t && validBitrate t) = true := by
    rcases h with h | h | h | h | h | h | h | h | h <;> obtain ⟨rfl, -, -⟩ := h <;> exact hw
  simpa [validRate, validBitrate, badBitrate] using hvalid

/-- A row without a fault writes the header registers and the geometry, and the body is next (spec/41_header.md
R190, R212 to R220). -/
theorem exec_headerOf {i : Instr} {v : Version} {l : Layer} {t : HdrTail} (s : State) (h : HeaderOf i v l t)
    (hw : i.wf = true) :
    exec i s = .next { s with hdr := specHeader v l t, geo := specGeometry s.par v l t, phase := .body } := by
  obtain ⟨vb, lb, hf, hv, hl⟩ := h.bits
  obtain ⟨hr, hb⟩ := h.valid hw
  rw [exec_header hf, headerWord_good s (versionOf_spec hv) (layerOf_spec hl) hr hb, specHeader_eq, geometryOf_eq]

/-- Settles O14: every row without a fault, and for Layer I the geometry's own form. -/
theorem headerResult : Obligations.HeaderResult := by
  refine ⟨fun i v t s h hw => ?_, fun i v l t s h _ hw => exec_headerOf s h hw⟩
  rw [exec_headerOf s h hw, specGeometry_layerOne]

end Sys2Proof.Machine
end

section
/-! PROOFS. The metadata tags: what the "Xing" and "VBRI" blocks leave, whether or not they fit, and the stages of
the probe (spec/42_vbr.md R241 to R253). -/

namespace Sys2Proof.Machine

open Sys2Proof

/-! ### A block that goes on where its bytes are there -/

theorem needBytes_fits {e : Nat} {s : State} {k : State → Block} (h : e ≤ s.fb.length) : needBytes e s k = k s :=
  if_neg (Nat.not_lt.2 h)

theorem needBytes_short {e : Nat} {s : State} {k : State → Block} (h : s.fb.length < e) :
    needBytes e s k = .corrupt (raise .vbrHeaderCorrupt s) :=
  if_pos h

/-- A block at offset `o`: going on where the buffer holds that many bytes, else ended by `VbrHeaderCorrupt`
(spec/42_vbr.md R251). -/
def blockAt (o : Nat) (s : State) : Block := needBytes o s (.going o)

theorem blockAt_fits {o : Nat} {s : State} (h : o ≤ s.fb.length) : blockAt o s = .going o s := needBytes_fits h

theorem blockAt_short {o : Nat} {s : State} (h : s.fb.length < o) :
    blockAt o s = .corrupt (raise .vbrHeaderCorrupt s) := needBytes_short h

/-- Where a block fits, the probe goes on. -/
theorem endBlock_blockAt_fits {p : Probe} {o : Nat} {s : State} (h : o ≤ s.fb.length) :
    endBlock p (blockAt o s) = .next { s with probe := p } := by
  rw [blockAt_fits h, endBlock]

/-- Where it does not, the command has ended. -/
theorem endBlock_blockAt_short {p : Probe} {o : Nat} {s : State} (h : s.fb.length < o) :
    endBlock p (blockAt o s) = .next (raise .vbrHeaderCorrupt s) := by
  rw [blockAt_short h, endBlock]

/-- The register of one gated field at offset `o`: the field's value where it is flagged and fits in `len` bytes, else
the value before (spec/42_vbr.md R245, R251). -/
def fieldAt {α : Type} (present : Bool) (o width len : Nat) (new : α) (old : Option α) : Option α :=
  if present = true ∧ o + width ≤ len then some new else old

/-- Where the bytes a field takes are there, its flag alone decides. -/
theorem fieldAt_fits {α : Type} {present : Bool} {o width len : Nat} {new : α} {old : Option α}
    (h : o + width * present.toNat ≤ len) :
    fieldAt present o width len new old = if present = true then some new else old := by
  cases present with
  | false => simp [fieldAt]
  | true =>
    rw [Bool.toNat_true, Nat.mul_one] at h
    simp [fieldAt, h]

/-- Where they are not, the register is kept. -/
theorem fieldAt_short {α : Type} {present : Bool} {o width len : Nat} {new : α} {old : Option α}
    (h : len < o + width * present.toNat) : fieldAt present o width len new old = old := by
  refine if_neg fun ⟨hp, hle⟩ => ?_
  rw [hp, Bool.toNat_true] at h
  omega

/-- A gated field takes a block on by the bytes it consumes, and is stored where it is flagged and fits
(spec/42_vbr.md R245, R251). -/
theorem xingField_blockAt (present : Bool) (width : Nat) {store : Nat → State → State} (o : Nat) (s : State)
    (hfb : (store o s).fb = s.fb) :
    xingField present width store (blockAt o s) =
      blockAt (o + width * present.toNat)
        (if present = true ∧ o + width ≤ s.fb.length then store o s else s) := by
  cases present with
  | false =>
    simp only [Bool.false_eq_true, false_and, if_false, Bool.toNat_false, Nat.mul_zero, Nat.add_zero]
    by_cases ho : o ≤ s.fb.length
    · rw [blockAt_fits ho, xingField_off]
    · rw [blockAt_short (by omega), xingField_corrupt]
  | true =>
    simp only [true_and, Bool.toNat_true, Nat.mul_one]
    by_cases hw : o + width ≤ s.fb.length
    · rw [if_pos hw, blockAt_fits (by omega), xingField_fits _ _ _ _ hw, blockAt_fits (by rwa [hfb])]
    · rw [if_neg hw, blockAt_short (o := o + width) (by omega)]
      by_cases ho : o ≤ s.fb.length
      · rw [blockAt_fits ho, xingField_short _ _ _ _ (by omega)]
      · rw [blockAt_short (by omega), xingField_corrupt]

/-! ### The four fields of the "Xing" block

Each field by its register: the block goes on behind it, and nothing but that register changes. -/

theorem xingField_storeFrames (present : Bool) (o : Nat) (s : State) :
    xingField present 4 storeFrames (blockAt o s) =
      blockAt (o + 4 * present.toNat)
        { s with vbr := { s.vbr with frames := fieldAt present o 4 s.fb.length (be32 s o) s.vbr.frames } } := by
  rw [xingField_blockAt _ _ _ _ rfl, fieldAt]
  split <;> rfl

theorem xingField_storeBytes (present : Bool) (o : Nat) (s : State) :
    xingField present 4 storeBytes (blockAt o s) =
      blockAt (o + 4 * present.toNat)
        { s with vbr := { s.vbr with bytes := fieldAt present o 4 s.fb.length (be32 s o) s.vbr.bytes } } := by
  rw [xingField_blockAt _ _ _ _ rfl, fieldAt]
  split <;> rfl

theorem xingField_storeToc (present : Bool) (o : Nat) (s : State) :
    xingField present 100 storeToc (blockAt o s) =
      blockAt (o + 100 * present.toNat)
        { s with vbr := { s.vbr with
          toc := fieldAt present o 100 s.fb.length ((List.range 100).map fun k => fbByte s (o + k)) s.vbr.toc } } := by
  rw [xingField_blockAt _ _ _ _ rfl, fieldAt]
  split <;> rfl

theorem xingField_storeScale (present : Bool) (o : Nat) (s : State) :
    xingField present 4 storeScale (blockAt o s) =
      blockAt (o + 4 * present.toNat)
        { s with vbr := { s.vbr with scale := fieldAt present o 4 s.fb.length (be32 s o) s.vbr.scale } } := by
  rw [xingField_blockAt _ _ _ _ rfl, fieldAt]
  split <;> rfl

/-- A flag is its bit of the flag byte (spec/42_vbr.md R246). -/
theorem flagSet_twoPow (flags : Byte) {b : Nat} (hb : b < 8) :
    flagSet flags (BitVec.twoPow 8 b) = flags.getLsbD b := by
  have hne : BitVec.twoPow 8 b ≠ 0#8 := fun h => by simpa [hb] using congrArg (·.getLsbD b) h
  rw [flagSet, BitVec.and_twoPow]
  cases flags.getLsbD b <;> simp [hne]

/-- The flags of the four fields in both readings of the flag byte (spec/42_vbr.md R246, decision D24). -/
theorem flagSet_xingMasks (flags : Byte) (x : XingFlags) :
    flagSet flags (xingMasks x).1 = flags.getLsbD 0 ∧ flagSet flags (xingMasks x).2.1 = flags.getLsbD 1 ∧
      flagSet flags (xingMasks x).2.2.1 = flags.getLsbD (if x = .standard then 2 else 3) ∧
      flagSet flags (xingMasks x).2.2.2 = flags.getLsbD (if x = .standard then 3 else 2) := by
  have hbit := fun b (hb : b < 8) => flagSet_twoPow flags hb
  cases x with
  | standard => exact ⟨hbit 0 (by decide), hbit 1 (by decide), hbit 2 (by decide), hbit 3 (by decide)⟩
  | d0Literal => exact ⟨hbit 0 (by decide), hbit 1 (by decide), hbit 3 (by decide), hbit 2 (by decide)⟩

/-- The VBR registers after the fields of a "Xing" block at `x` with the four flags given: each field stands behind
those flagged before it (spec/42_vbr.md R245). -/
def xingRegs (x : Nat) (fr by' tc sc : Bool) (s : State) : VbrRegs :=
  let o := x + 8
  let o1 := o + 4 * fr.toNat
  let o2 := o1 + 4 * by'.toNat
  let o3 := o2 + 100 * tc.toNat
  { isVbr := s.vbr.isVbr
    frames := fieldAt fr o 4 s.fb.length (be32 s o) s.vbr.frames
    bytes := fieldAt by' o1 4 s.fb.length (be32 s o1) s.vbr.bytes
    toc := fieldAt tc o2 100 s.fb.length ((List.range 100).map fun k => fbByte s (o2 + k)) s.vbr.toc
    scale := fieldAt sc o3 4 s.fb.length (be32 s o3) s.vbr.scale }

/-- The fields of the "Xing" block are four gated fields behind the flag word. -/
theorem xingFields_chain (x : Nat) (s : State) :
    xingFields x s =
      xingField (flagSet (fbByte s (x + 7)) (xingMasks s.par.xingFlags).2.2.2) 4 storeScale
        (xingField (flagSet (fbByte s (x + 7)) (xingMasks s.par.xingFlags).2.2.1) 100 storeToc
          (xingField (flagSet (fbByte s (x + 7)) (xingMasks s.par.xingFlags).2.1) 4 storeBytes
            (xingField (flagSet (fbByte s (x + 7)) (xingMasks s.par.xingFlags).1) 4 storeFrames
              (blockAt (x + 8) s)))) := by
  rw [xingFields]
  by_cases h : x + 8 ≤ s.fb.length
  · rw [needBytes_fits h, blockAt_fits h]
  · simp only [needBytes_short (Nat.not_le.1 h), blockAt_short (Nat.not_le.1 h), xingField_corrupt]

/-- `fr`, `by'`, `tc`, `sc` are the frames, bytes, TOC and scale flags of a "Xing" block at `x`, as the parameter
`XING_FLAGS` reads the flag byte (spec/42_vbr.md R244, R246). -/
structure XingFlagsAt (x : Nat) (fr by' tc sc : Bool) (s : State) : Prop where
  frames : fr = (s.fb.getD (x + 7) 0#8).getLsbD 0
  bytes : by' = (s.fb.getD (x + 7) 0#8).getLsbD 1
  toc : tc = (s.fb.getD (x + 7) 0#8).getLsbD (if s.par.xingFlags = .standard then 2 else 3)
  scale : sc = (s.fb.getD (x + 7) 0#8).getLsbD (if s.par.xingFlags = .standard then 3 else 2)

/-- The fields of the "Xing" block are as long as its flags say (spec/42_vbr.md R244 to R246, R251). -/
theorem xingFields_eq {x : Nat} {fr by' tc sc : Bool} {s : State} (hf : XingFlagsAt x fr by' tc sc s) :
    xingFields x s =
      blockAt (x + 8 + 4 * fr.toNat + 4 * by'.toNat + 100 * tc.toNat + 4 * sc.toNat)
        { s with vbr := xingRegs x fr by' tc sc s } := by
  obtain ⟨rfl, rfl, rfl, rfl⟩ := hf
  obtain ⟨h1, h2, h3, h4⟩ := flagSet_xingMasks (fbByte s (x + 7)) s.par.xingFlags
  rw [xingFields_chain, h1, h2, h3, h4, xingField_storeFrames, xingField_storeBytes, xingField_storeToc,
    xingField_storeScale]
  rfl

/-- `XING` is the end of that block, with `IS_VBR` set (spec/42_vbr.md R243). -/
theorem exec_xing_eq {s : State} {v : Version} {m : Mode} {fr by' tc sc : Bool}
    (hv : s.hdr.version = some v) (hm : s.hdr.mode = some m) (hf : XingFlagsAt (specSide v m) fr by' tc sc s) :
    exec .xing s =
      endBlock .vbri
        (blockAt (specSide v m + 8 + 4 * fr.toNat + 4 * by'.toNat + 100 * tc.toNat + 4 * sc.toNat)
          { s with vbr := { xingRegs (specSide v m) fr by' tc sc s with isVbr := true } }) := by
  simp only [exec, execXing, hv, hm, require_some, xingOffset_eq]
  exact congrArg (endBlock .vbri) (xingFields_eq ⟨hf.frames, hf.bytes, hf.toc, hf.scale⟩)

/-- Settles O37: in a block that fits every field fits, so each is read exactly where it is flagged. -/
theorem xingResult : Obligations.XingResult := by
  intro s v m fr by' tc sc flags hv hm hflags hfr hby htc hsc hfit
  subst hflags
  rw [exec_xing_eq hv hm ⟨hfr, hby, htc, hsc⟩, endBlock_blockAt_fits, xingRegs,
    fieldAt_fits (present := fr) (by omega), fieldAt_fits (present := by') (by omega),
    fieldAt_fits (present := tc) (by omega), fieldAt_fits (present := sc) hfit]
  · simp only [be32_eq, fbByte]
  · exact hfit

/-- Settles O38: a block that does not fit ends in the exception; its last field is not read, the others where they
are flagged and fit. -/
theorem xingCorrupt : Obligations.XingCorrupt := by
  intro s v m fr by' tc sc flags hv hm hflags hfr hby htc hsc hshort
  subst hflags
  refine ⟨{ xingRegs (specSide v m) fr by' tc sc s with isVbr := true }, ?_, rfl, ?_, ?_, ?_, fieldAt_short hshort⟩
  · exact (exec_xing_eq hv hm ⟨hfr, hby, htc, hsc⟩).trans (endBlock_blockAt_short hshort)
  · rw [← be32_eq]
    rfl
  · rw [← be32_eq]
    exact if_congr (and_congr_right fun _ => by omega) rfl rfl
  · exact if_congr (and_congr_right fun _ => by omega) rfl rfl

/-! ### The "VBRI" block -/

theorem vbriFields_fits {s : State} (h : 50 ≤ s.fb.length) :
    vbriFields s = .going 50 (storeFrames 46 (storeBytes 42 s)) :=
  (needBytes_fits (by omega)).trans (needBytes_fits h)

/-- Where only the byte count fits, it is stored before the exception (spec/42_vbr.md R251). -/
theorem vbriFields_bytesOnly {s : State} (h : 46 ≤ s.fb.length) (h' : s.fb.length < 50) :
    vbriFields s = .corrupt (raise .vbrHeaderCorrupt (storeBytes 42 s)) :=
  (needBytes_fits h).trans (needBytes_short h')

theorem vbriFields_short {s : State} (h : s.fb.length < 46) : vbriFields s = .corrupt (raise .vbrHeaderCorrupt s) :=
  needBytes_short h

/-- Settles O39: the byte count and then the frame count, each asked for before it is read. -/
theorem vbriResult : Obligations.VbriResult := by
  intro s
  simp only [exec, execVbri, ← be32_eq]
  refine ⟨fun h => ?_, fun h h' => ?_, fun h => ?_⟩
  · rw [vbriFields_fits]
    exacts [rfl, h]
  · rw [vbriFields_bytesOnly]
    exacts [rfl, h, h']
  · rw [vbriFields_short]
    exacts [rfl, h]

/-! ### What a tag leaves alone -/

/-- Settles O40: a tag writes VBR registers and the probe's position, or raises. -/
theorem probeFrame : Obligations.ProbeFrame := by
  intro i s t hi h
  obtain ⟨r, -, ⟨p, rfl⟩ | rfl⟩ := exec_tag_next hi h
  · exact ⟨.inl rfl, rfl, rfl, fun _ => rfl⟩
  · rw [raise_eq]
    exact ⟨.inr rfl, rfl, rfl, fun _ => rfl⟩

/-! ### The stages of the probe -/

/-- A tag that the buffer does not hold, or other bytes in its place: no element (spec/42_vbr.md R243, R249, decision
D23). -/
theorem fetchTag_absent {x : Nat} {tag : Instr} {s : State}
    (h : s.fb.length < x + 4 ∨ bytesAt s x ≠ (encode tag).toNat) : fetchTag x tag s = .noElement := by
  unfold fetchTag
  split_ifs with hlen hd
  · rfl
  · obtain ⟨-, -, he⟩ := decodeTag_reencodes hd
    rw [Kind.width, Nat.mod_eq_of_lt (be32 s x).isLt, be32_toNat] at he
    exact absurd he.symm (h.resolve_left hlen)
  · rfl

/-- Where the probe finds no tag, a step of `P_VBR` is the probe's own (spec/42_vbr.md R241). -/
theorem step_probe_eq {s : State} (ht : s.top = .busy) (hp : s.phase = .vbr) (hf : fetchProbe s = .noElement) :
    step s = stepProbe s := by
  rw [step_sequencer ht (by rw [fetch, hp, hf]), sequencer, hp]

/-- Settles O41: before, between and after the tags the fetch finds no element, and the probe's own step answers. -/
theorem probeStages : Obligations.ProbeStages := by
  intro s ht hp
  refine ⟨fun hpr hfirst => ?_, fun hpr hfirst => ?_, fun v m hpr hv hm habsent => ?_, fun hpr habsent => ?_,
    fun hpr hl => ?_, fun l hpr hl hne => ?_⟩
  · rw [step_probe_eq ht hp (by rw [fetchProbe, hpr]), stepProbe, hpr]
    simp only [hfirst, if_true]
  · rw [step_probe_eq ht hp (by rw [fetchProbe, hpr]), stepProbe, hpr]
    simp only [hfirst, Bool.false_eq_true, if_false]
  · have hf : fetchProbe s = .noElement := by
      simp only [fetchProbe, hpr, hv, hm, fetchReg_some, xingOffset_eq]
      exact fetchTag_absent habsent
    rw [step_probe_eq ht hp hf, stepProbe, hpr]
  · have hf : fetchProbe s = .noElement := by
      simp only [fetchProbe, hpr, vbriOffset]
      exact fetchTag_absent habsent
    rw [step_probe_eq ht hp hf, stepProbe, hpr]
  · rw [step_probe_eq ht hp (by rw [fetchProbe, hpr]), stepProbe, hpr]
    simp only [hl, require_some, if_true]
  · rw [step_probe_eq ht hp (by rw [fetchProbe, hpr]), stepProbe, hpr]
    simp only [hl, require_some, if_neg hne]

end Sys2Proof.Machine
end

section
/-! PROOFS. The checksum and the gate: `CRC.ADD` as a fold of shift steps that concatenates, and what the gate compares
and counts before the sample phase. -/

namespace Sys2Proof.Machine

open Sys2Proof

/-! ### `CRC.ADD` -/

/-- The shift step in numbers: the bit shifted out and the bit fed differ where they add up to 1
(spec/43_crc.md R264). -/
theorem crcBit_testBit (poly x : BitVec 16) (v k : Nat) :
    crcBit poly x (v.testBit k) =
      if x.toNat / 2 ^ 15 + v / 2 ^ k % 2 = 1 then BitVec.ofNat 16 (2 * x.toNat) ^^^ poly
      else BitVec.ofNat 16 (2 * x.toNat) := by
  have hshift : x <<< 1 = BitVec.ofNat 16 (2 * x.toNat) := by
    apply BitVec.eq_of_toNat_eq
    rw [BitVec.toNat_shiftLeft, BitVec.toNat_ofNat, Nat.shiftLeft_eq, pow_one, Nat.mul_comm]
  have hdiffer : (x.getLsbD 15).xor (v.testBit k) = true ↔ x.toNat / 2 ^ 15 + v / 2 ^ k % 2 = 1 := by
    have hx := x.isLt
    rw [BitVec.getLsbD, Nat.testBit_eq_decide_div_mod_eq, Nat.testBit_eq_decide_div_mod_eq, bne_iff_ne, ne_eq,
      decide_eq_decide]
    omega
  rw [crcBit, hshift]
  exact if_congr hdiffer rfl rfl

/-- The loop is a fold over the places `n - 1` down to 0. -/
theorem crcLoop_eq_foldl (poly : BitVec 16) (v n : Nat) : ∀ acc : BitVec 16,
    crcLoop poly acc v n =
      (List.range n).foldl (fun x j => crcBit poly x (v.testBit (n - 1 - j))) acc := by
  induction n with
  | zero => exact fun _ => rfl
  | succ n ih =>
    intro acc
    have hplace (j : Nat) : n - 1 - j = n - (j + 1) := by omega
    rw [crcLoop, ih, List.range_succ_eq_map, List.foldl_cons, List.foldl_map]
    simp only [Nat.succ_eq_add_one, Nat.add_sub_cancel, Nat.sub_zero, hplace]

/-- The loop of `n` steps reads the `n` low bits only. -/
theorem crcLoop_congr {poly : BitVec 16} {v w n : Nat} (h : ∀ k < n, v.testBit k = w.testBit k) :
    ∀ acc : BitVec 16, crcLoop poly acc v n = crcLoop poly acc w n := by
  induction n with
  | zero => exact fun _ => rfl
  | succ n ih =>
    intro acc
    rw [crcLoop, crcLoop, h n n.lt_succ_self, ih fun k hk => h k (by omega)]

/-- A group of bits and then another are their concatenation. -/
theorem crcLoop_append {poly : BitVec 16} {a b m n : Nat} (hb : b < 2 ^ n) :
    ∀ acc : BitVec 16, crcLoop poly (crcLoop poly acc a m) b n = crcLoop poly acc (2 ^ n * a + b) (m + n) := by
  induction m with
  | zero =>
    intro acc
    rw [crcLoop, Nat.zero_add]
    exact crcLoop_congr (fun k hk => by rw [Nat.testBit_two_pow_mul_add a hb, if_pos hk]) acc
  | succ m ih =>
    intro acc
    have hbit : (2 ^ n * a + b).testBit (m + n) = a.testBit m := by
      rw [Nat.testBit_two_pow_mul_add a hb, if_neg (by omega), Nat.add_sub_cancel]
    rw [crcLoop, ih, Nat.add_right_comm, crcLoop, hbit]

/-- `CRC.ADD` with the bits fed most significant first (spec/43_crc.md R261). -/
theorem crcAdd_of_not_reflectIn {c : CrcParams} (hc : c.reflectIn = false) (acc : BitVec 16) (v n : Nat) :
    crcAdd c acc v n = crcLoop c.poly acc v n := by
  rw [crcAdd, hc, if_neg Bool.false_ne_true]

/-- Settles O19: the loop is the fold of its shift steps, and concatenates by induction on the bits of the first
group. -/
theorem crcAddLoop : Obligations.CrcAddLoop := by
  intro c hc
  refine ⟨fun acc v n => ?_, fun acc a b m n hb => ?_⟩
  · rw [crcAdd_of_not_reflectIn hc, crcLoop_eq_foldl]
    simp only [crcBit_testBit]
  · simp only [crcAdd_of_not_reflectIn hc]
    rw [crcLoop_append hb, Nat.mul_comm]

/-! ### The bits all codes ask for (spec/45_samples_sink.md R318) -/

/-- A subband's summand of `askedBits`. -/
def subbandAsked (e : SubbandRegs) : Nat :=
  asked e.alloc1 + (if e.variant = some .stereo then asked e.alloc2 else 0)

/-- `askedBits` is the sum of its summands. -/
theorem askedBits_eq (sb : Vector SubbandRegs 32) : askedBits sb = (sb.toList.map subbandAsked).sum := rfl

/-- A code that has been read asks for its bits. -/
theorem asked_some (a : BitVec 4) : asked (some a) = codeBits a := rfl

/-- The codes that `W` needs of a subband have been read. -/
def CodesRead (e : SubbandRegs) : Prop :=
  e.variant ≠ none ∧ e.alloc1 ≠ none ∧ (e.variant = some .stereo → e.alloc2 ≠ none)

/-- A subband whose codes have been read asks for its summand. -/
theorem subbandBits_asked {e : SubbandRegs} (h : CodesRead e) : subbandBits e = some (subbandAsked e) := by
  obtain ⟨hv, h1, h2⟩ := h
  obtain ⟨v, hv⟩ := Option.ne_none_iff_exists'.1 hv
  obtain ⟨a, ha⟩ := Option.ne_none_iff_exists'.1 h1
  cases v with
  | stereo =>
    obtain ⟨b, hb⟩ := Option.ne_none_iff_exists'.1 (h2 hv)
    simp only [subbandBits, subbandAsked, hv, ha, hb, asked_some, if_true]
  | mono => simp [subbandBits, subbandAsked, hv, ha, asked_some]
  | isx => simp [subbandBits, subbandAsked, hv, ha, asked_some]

/-- `W` over the first `n` subbands is the sum of their summands. -/
theorem totalBits_take {sb : Vector SubbandRegs 32} (h : ∀ i (hi : i < 32), CodesRead sb[i]) {n : Nat}
    (hn : n ≤ 32) : totalBits sb n = some ((sb.toList.map subbandAsked).take n).sum := by
  induction n with
  | zero => rfl
  | succ n ih =>
    rw [totalBits_succ (ih (by omega)) (Vector.getElem?_eq_getElem hn) (subbandBits_asked (h n hn)),
      List.sum_take_succ _ _ (by simpa using hn), List.getElem_map, Vector.getElem_toList]

/-- Where all codes have been read, `W` is what they ask for. -/
theorem totalBits_eq_askedBits {sb : Vector SubbandRegs 32} (h : ∀ i (hi : i < 32), CodesRead sb[i]) :
    totalBits sb 32 = some (askedBits sb) := by
  rw [totalBits_take h (le_refl _), List.take_of_length_le (by simp), askedBits_eq]

/-! ### The gate -/

/-- The step at `P_GATE` is the gate's own. -/
theorem step_gate_eq {s : State} (ht : s.top = .busy) (hp : s.phase = .gate) : step s = stepGate s := by
  rw [step_sequencer ht (by simp only [fetch, hp]), sequencer, hp]

/-- With no accumulator attached the gate opens (spec/45_samples_sink.md R301). -/
theorem stepGate_unattached {s : State} (h : s.crcAttached = false) : stepGate s = openGate s := by
  rw [stepGate, h, if_neg Bool.false_ne_true]

/-- With an accumulator attached `CRC.CHECK` decides (spec/43_crc.md R265). -/
theorem stepGate_attached {s : State} {acc field : BitVec 16} (h : s.crcAttached = true) (hacc : s.crcAcc = some acc)
    (hfield : s.crcField = some field) :
    stepGate s =
      if crcResult s.par.crc acc = field then openGate s
      else .next (startSamples { logEvent .checksumMismatch s with gateOk := some false }) := by
  rw [stepGate, if_pos h, hacc, hfield, require_some, require_some]

/-- The gate opens where nothing is attached or the field is the checksum. -/
theorem stepGate_opens {s : State}
    (h : s.crcAttached = false ∨ ∃ c, s.crcAcc = some c ∧ s.crcField = some (crcResult s.par.crc c)) :
    stepGate s = openGate s := by
  cases hatt : s.crcAttached with
  | false => exact stepGate_unattached hatt
  | true =>
    obtain ⟨c, hacc, hfield⟩ := h.resolve_left (by simp [hatt])
    rw [stepGate_attached hatt hacc hfield, if_pos rfl]

/-- The length check, where all codes have been read (spec/45_samples_sink.md R318). -/
theorem openGate_eq {s : State} (hn : s.geo.subbandCount = some 32) (h : ∀ i (hi : i < 32), CodesRead s.sb[i]) :
    openGate s =
      if 8 * s.fb.length < s.bitpos + 12 * askedBits s.sb then
        .next (raise .frameOverrun { s with gateOk := some true })
      else .next (startSamples { s with gateOk := some true }) := by
  rw [openGate, hn, require_some, totalBits_eq_askedBits h, require_some]

/-- `CRC.CHECK` compares the accumulator itself where it is neither reflected nor inverted (spec/43_crc.md R261). -/
theorem crcResult_plain {c : CrcParams} (hr : c.reflectOut = false) (hx : c.xorOut = 0#16) (acc : BitVec 16) :
    crcResult c acc = acc := by
  rw [crcResult, hr, hx, if_neg Bool.false_ne_true, BitVec.xor_zero]

/-- Settles O50: the checksum decides whether the gate opens, and the open gate checks the length. -/
theorem gateResult : Obligations.GateResult := by
  refine ⟨fun c acc hr hx => crcResult_plain hr hx acc, fun s ht hp hn hcodes => ⟨?_, fun hopen => ⟨?_, ?_⟩⟩⟩
  · intro acc field hatt hacc hfield hne
    rw [step_gate_eq ht hp, stepGate_attached hatt hacc hfield, if_neg hne]
    rfl
  · intro hfits
    rw [step_gate_eq ht hp, stepGate_opens hopen, openGate_eq hn hcodes, if_neg (by omega), startSamples]
  · intro hover
    rw [step_gate_eq ht hp, stepGate_opens hopen, openGate_eq hn hcodes, if_pos hover]

end Sys2Proof.Machine
end

section
/-! PROOFS. Allocation codes and scale-factor indices: what each stores and leaves alone, the register file that
`CONSTRUCT` makes, the ends of the field loops, and scaling by a zero entry. -/

namespace Sys2Proof.Machine

open Sys2Proof

/-! ### What a field element stores -/

/-- `putAlloc` by a test of the channel. -/
theorem putAlloc_eq (c : Chan) (a : BitVec 4) (e : SubbandRegs) :
    putAlloc c a e = if c = .ch1 then { e with alloc1 := some a } else { e with alloc2 := some a } := by
  cases c <;> rfl

/-- `putScf` by a test of the channel. -/
theorem putScf_eq (c : Chan) (x : BitVec 6) (e : SubbandRegs) :
    putScf c x e = if c = .ch1 then { e with scf1 := some x } else { e with scf2 := some x } := by
  cases c <;> rfl

/-- Everything the fold does, where an attached accumulator holds a value (spec/44_alloc_scf.md R274). -/
theorem foldAlloc_held {a : BitVec 4} {s : State} {k : State → Result} (h : s.crcAttached = true → s.crcAcc ≠ none) :
    foldAlloc a s k =
      k { s with
        crcAcc := if s.crcAttached = true then s.crcAcc.map (crcAdd s.par.crc · a.toNat 4) else s.crcAcc } := by
  unfold foldAlloc
  by_cases hatt : s.crcAttached = true
  · obtain ⟨acc, hacc⟩ := Option.ne_none_iff_exists'.1 (h hatt)
    rw [if_pos hatt, if_pos hatt, hacc, require_some, Option.map_some]
  · rw [if_neg hatt, if_neg hatt]

/-- A legal allocation code, where an attached accumulator holds a value (spec/44_alloc_scf.md R272, R274). -/
theorem storeAlloc_held {a : BitVec 4} {s : State} {e : SubbandRegs} {v : Variant} (he : s.sb[s.sbi]? = some e)
    (hv : e.variant = some v) (hacc : s.crcAttached = true → s.crcAcc ≠ none) :
    storeAlloc a s =
      .next { s with
        crcAcc := if s.crcAttached = true then s.crcAcc.map (crcAdd s.par.crc · a.toNat 4) else s.crcAcc
        sb := s.sb.setIfInBounds s.sbi (putAlloc s.chan a e)
        chan := if s.chan = .ch1 ∧ secondAlloc v = true then .ch2 else .ch1
        sbi := if s.chan = .ch1 ∧ secondAlloc v = true then s.sbi else s.sbi + 1 } := by
  rw [storeAlloc, withSubband_eq he, hv, require_some, foldAlloc_held hacc, nextSlot_eq]
  rfl

/-- Settles O22: the code is folded and stored, and only a `Stereo` subband has a second one. -/
theorem allocStored : Obligations.AllocStored := by
  intro i a s e v hi ha he hv hacc
  rw [exec_alloc hi, if_neg ha, storeAlloc_held he hv hacc, putAlloc_eq]
  simp only [secondAlloc_iff]

/-- Settles O25: the index is stored, and every subband but a `Mono` one has a second one. -/
theorem scfStored : Obligations.ScfStored := by
  intro i x s e v hi he hv
  rw [exec_scf hi, storeScf_eq he hv, putScf_eq]
  simp only [secondScf_iff]

/-! ### The reserved allocation code -/

/-- Settles O23: the reserved code is the exception itself. -/
theorem allocReserved : Obligations.AllocReserved := by
  intro s
  have hread : 0 < s.fb.length ↔ ¬ s.fb = [] := List.length_pos_iff
  rw [exec_alloc (a := 15#4) rfl, if_pos rfl, raise_eq]
  simp only [hread, ite_not]
  rfl

/-! ### What a field element leaves alone -/

/-- A legal allocation code writes one entry, that at `SBI`. -/
theorem storeAlloc_sb {a : BitVec 4} {s t : State} (h : storeAlloc a s = .next t) :
    ∃ e, t.sb = s.sb.setIfInBounds s.sbi e := by
  obtain ⟨e, -, h⟩ := withSubband_next.1 h
  obtain ⟨v, -, h⟩ := require_next.1 h
  obtain ⟨acc, h⟩ := foldAlloc_next h
  cases h
  exact ⟨_, nextSlot_sb _ _⟩

/-- A scale-factor index writes one entry, that at `SBI`. -/
theorem storeScf_sb {x : BitVec 6} {s t : State} (h : storeScf x s = .next t) :
    ∃ e, t.sb = s.sb.setIfInBounds s.sbi e := by
  obtain ⟨e, -, h⟩ := withSubband_next.1 h
  obtain ⟨v, -, h⟩ := require_next.1 h
  cases h
  exact ⟨_, nextSlot_sb _ _⟩

/-- Settles O24: a legal code writes its own registers, the reserved one raises, and neither writes the stream. -/
theorem allocFrame : Obligations.AllocFrame := by
  intro i a s t hi h
  rw [exec_alloc hi] at h
  by_cases ha : a = 15#4
  · rw [if_pos ha, raise_eq] at h
    cases h
    exact ⟨fun hne => absurd ha hne, fun _ => rfl, fun _ => rfl⟩
  · rw [if_neg ha] at h
    have hframe := storeAlloc_frame h
    obtain ⟨e, hsb⟩ := storeAlloc_sb h
    refine ⟨fun _ => ⟨hframe, fun j hj => ?_⟩, fun h15 => absurd h15 ha, fun x => ?_⟩
    · rw [hsb, Vector.getElem?_setIfInBounds_ne hj.symm]
    · rw [hframe]

/-- Settles O26: an index writes its own registers, and its own entry of the register file. -/
theorem scfFrame : Obligations.ScfFrame := by
  intro i x s t hi h
  rw [exec_scf hi] at h
  have hframe := storeScf_frame h
  obtain ⟨e, hsb⟩ := storeScf_sb h
  refine ⟨hframe, fun j hj => ?_, fun a => ?_⟩
  · rw [hsb, Vector.getElem?_setIfInBounds_ne hj.symm]
  · rw [hframe]

/-! ### The register file that `CONSTRUCT` makes -/

/-- The entry of the file at an index (spec/44_alloc_scf.md R271). -/
theorem constructed_get (m : Mode) (b n : Nat) {i : Nat} (hi : i < 32) :
    (constructed m b n)[i]? =
      some { SubbandRegs.blank with variant := if n ≤ i then none else some (variantOf m b i) } := by
  rw [Vector.getElem?_eq_getElem hi, constructed, Vector.getElem_ofFn]
  by_cases h : n ≤ i
  · rw [if_neg (Nat.not_lt.2 h), if_pos h]
    rfl
  · rw [if_pos (Nat.lt_of_not_le h), if_neg h]

/-- The variants by mode and bound, as the statement tests the mode (spec/44_alloc_scf.md R271). -/
theorem variantOf_eq (m : Mode) (b i : Nat) :
    some (variantOf m b i) =
      if m = .singleChannel then some .mono
      else if m = .jointStereo then (if i < b then some .stereo else some .isx)
      else some .stereo := by
  cases m with
  | jointStereo => exact apply_ite some (i < b) _ _
  | singleChannel => rfl
  | stereo => rfl
  | dualChannel => rfl

/-- Settles O48: the step makes the file of the mode and of the bound, which only `JOINT_STEREO` reads. -/
theorem constructResult : Obligations.ConstructResult := by
  intro s m b n ht hp hm hb hn
  obtain ⟨t, h⟩ := step_construct_answers ht hp hm hb hn
  obtain ⟨m', b', n', hm', hn', hb', rfl⟩ := step_construct_next ht hp h
  obtain rfl := Option.some.inj (hm.symm.trans hm')
  obtain rfl := Option.some.inj (hn.symm.trans hn')
  have hbound : m = .jointStereo → b' = b := fun hj => Option.some.inj ((hb' hj).symm.trans hb)
  refine ⟨_, h, rfl, fun i hi => ?_⟩
  rw [constructed_get m b' n hi, variantOf_congr hbound, variantOf_eq]
  rfl

/-! ### The field loops -/

/-- At a channel that is not signalled the fetch finds no index (spec/44_alloc_scf.md R280). -/
theorem fetch_scf_silent {s : State} {n : Nat} {e : SubbandRegs} {v : Variant} (hp : s.phase = .scf)
    (hn : s.geo.subbandCount = some n) (hl : s.sbi < n) (he : s.sb[s.sbi]? = some e) (hv : e.variant = some v)
    (ha : allocFor v s.chan e = some 0#4) : fetch s = .noElement := by
  simp only [fetch, hp, fetchScf, hn, fetchReg_some, if_pos hl, fetchSubband_eq he hv, ha]
  rfl

/-- After the last subband the fetch finds no index (spec/44_alloc_scf.md R270). -/
theorem fetch_scf_end {s : State} {n : Nat} (hp : s.phase = .scf) (hn : s.geo.subbandCount = some n)
    (hle : n ≤ s.sbi) : fetch s = .noElement := by
  simp only [fetch, hp, fetchScf, hn, fetchReg_some, if_neg (Nat.not_lt.2 hle)]

/-- After the last subband the fetch finds no allocation code (spec/44_alloc_scf.md R270). -/
theorem fetch_alloc_end {s : State} {n : Nat} (hp : s.phase = .alloc) (hn : s.geo.subbandCount = some n)
    (hle : n ≤ s.sbi) : fetch s = .noElement := by
  simp only [fetch, hp, fetchAlloc, hn, fetchReg_some, if_neg (Nat.not_lt.2 hle)]

/-- Where the fetch finds no index the step is the loop's own. -/
theorem step_scf_eq {s : State} (ht : s.top = .busy) (hp : s.phase = .scf) (hf : fetch s = .noElement) :
    step s = stepScf s := by
  rw [step_sequencer ht hf, sequencer, hp]

/-- Settles O49: where the fetch finds no element the sequencer passes on, to the next slot or the next phase. -/
theorem fieldLoopsPassOn : Obligations.FieldLoopsPassOn := by
  intro s n ht hn
  refine ⟨fun e v hp hl he hv ha => ?_, fun hp hle => ?_, fun hp hle => ?_⟩
  · rw [step_scf_eq ht hp (fetch_scf_silent hp hn hl he hv ha), stepScf, hn, require_some, if_pos hl,
      withSubband_eq he, hv, require_some, nextSlot_eq]
    simp only [secondScf_iff]
  · rw [step_sequencer ht (fetch_alloc_end hp hn hle), sequencer, hp, endAlloc]
  · rw [step_scf_eq ht hp (fetch_scf_end hp hn hle), stepScf, hn, require_some, if_neg (Nat.not_lt.2 hle)]

/-! ### Scaling by a zero entry -/

/-- A finite value scaled by a zero entry is the rounding of an exact zero with the value's sign
(spec/45_samples_sink.md R306, R313). -/
theorem scl_zero {p : Params} {x : Sample} {i : BitVec 6} {q : Rat} (hs : scale p i = .number 0)
    (hx : sampleValue x = some q) : scl p x i = rnd p.format (sampleNegative x) 0 := by
  have hsign : (sampleNegative x != sampleNegative (.number 0)) = sampleNegative x := Bool.xor_false _
  have hval : sampleValue (.number 0) = some 0 := rfl
  simp only [scl, sampleMul, hs, hsign, hx, hval, exactProduct_eq, mul_zero]

/-- An exact zero rounds to the zero of its sign in every binary format (spec/45_samples_sink.md R313). -/
theorem rnd_binary_zero (b : BinaryFormat) (negative : Bool) : rnd (.binary b) negative 0 = signedZero negative :=
  rfl

/-- Settles O36: the product is an exact zero, and its rounding keeps the sign of the value. -/
theorem sentinelScaleIsZero : Obligations.SentinelScaleIsZero := by
  obtain ⟨-, -, hzero, -⟩ := tablesRounded
  refine ⟨hzero, rfl, fun p i hs => ⟨fun b hb => ⟨fun q => ?_, ?_⟩, fun hf q => ?_⟩⟩
  · rw [scl_zero hs rfl, hb, rnd_binary_zero]
    simp only [signedZero, sampleNegative, Rat.num_neg, decide_eq_true_eq]
  · rw [scl_zero hs rfl, hb, rnd_binary_zero]
    rfl
  · rw [scl_zero hs rfl, hf]
    rfl

end Sys2Proof.Machine
end

section
/-! PROOFS. The turns of the sample loop: what the end of a turn sends, by the variant of the subband, in the terms of
the statements; the sample codes and the silent turns follow from it. Then what a turn leaves alone, and the flushes at
the end of a repetition. -/

namespace Sys2Proof.Machine

open Sys2Proof

/-! ### The value a channel contributes -/

/-- A channel that is ready contributes its value through an open gate (spec/45_samples_sink.md R306, R310). -/
theorem ChannelReady.value {p : Params} {alloc : Option (BitVec 4)} {raw : Option (BitVec 15)}
    {scf : Option (BitVec 6)} {v : Sample} (h : ChannelReady p alloc raw scf v) :
    channelValue p true alloc raw scf = .ok v := by
  rcases h with ⟨rfl, rfl⟩ | ⟨a, r, i, rfl, ha, rfl, rfl, rfl⟩
  · rfl
  · have hs : signalled a = true := by simpa [signalled] using ha
    simp only [channelValue, hs, if_true]
    rfl

/-- A channel without a code contributes +0 through an open gate (spec/45_samples_sink.md R310). -/
theorem channelValue_silent (p : Params) (raw : Option (BitVec 15)) (scf : Option (BitVec 6)) :
    channelValue p true (some 0#4) raw scf = .ok (.number 0) :=
  ChannelReady.value (.inl ⟨rfl, rfl⟩)

/-- Every channel contributes +0 where the gate is closed (spec/45_samples_sink.md R302). -/
theorem channelValue_closed (p : Params) (alloc : Option (BitVec 4)) (raw : Option (BitVec 15))
    (scf : Option (BitVec 6)) : channelValue p false alloc raw scf = .ok (.number 0) := rfl

/-- Only a `Mono` subband has one value (spec/45_samples_sink.md R307 to R309). -/
theorem subbandValues_second {p : Params} {g : Bool} {v : Variant} {e : SubbandRegs} {v1 : Sample}
    {v2 : Option Sample} (h : subbandValues p g v e = .ok (v1, v2)) : v2 = none ↔ v = .mono := by
  unfold subbandValues at h
  split at h
  · cases h
  · cases v <;> dsimp only at h
    case mono =>
      cases h
      exact iff_of_true rfl rfl
    all_goals
      split at h <;> cases h
      exact iff_of_false nofun nofun

/-! ### A subband's last turn

After it channel 1 is next: `c`, which may be the register that holds it. -/

section LastTurn

variable {s : State} {e : SubbandRegs} {g : Bool} {m : Mode} {v1 v2 : Sample} {c : Chan}
  (he : s.sb[s.sbi]? = some e) (hg : s.gateOk = some g) (hm : s.hdr.mode = some m)
  (h1 : channelValue s.par g e.alloc1 e.raw1 e.scf1 = .ok v1)
include he hg hm h1

/-- The turn of a `Mono` subband sends its value to sink 1 (spec/45_samples_sink.md R307). -/
theorem finishSampleSlot_mono (hv : e.variant = some .mono) (hc : c = .ch1) :
    finishSampleSlot s = .next (input1 (sink1On s.chsel) s.sbi v1 { s with chan := c, sbi := s.sbi + 1 }) := by
  have hx : subbandValues s.par g .mono e = .ok (v1, none) := by simp only [subbandValues, h1]
  rw [finishSampleSlot_last he hv (fun h => nomatch h.2) hg hm hx, forward_eq, input1_slot, hc]

/-- The turn of channel 2 of a `Stereo` subband sends each channel's value, sink 1 first
(spec/45_samples_sink.md R308). -/
theorem finishSampleSlot_stereo (hv : e.variant = some .stereo) (hc : s.chan = .ch2)
    (h2 : channelValue s.par g e.alloc2 e.raw2 e.scf2 = .ok v2) :
    finishSampleSlot s =
      .next (input2 (sink2On s.chsel m) s.sbi v2
        (input1 (sink1On s.chsel) s.sbi v1 { s with chan := .ch1, sbi := s.sbi + 1 })) := by
  have hx : subbandValues s.par g .stereo e = .ok (v1, some v2) := by simp only [subbandValues, h1, h2]
  rw [finishSampleSlot_last he hv (by simp [hc]) hg hm hx, forward_eq, input2_slot]

/-- The turn of an `ISX` subband sends the value of each index, sink 1 first (spec/45_samples_sink.md R309). -/
theorem finishSampleSlot_isx (hv : e.variant = some .isx) (hc : c = .ch1)
    (h2 : channelValue s.par g e.alloc1 e.raw1 e.scf2 = .ok v2) :
    finishSampleSlot s =
      .next (input2 (sink2On s.chsel m) s.sbi v2
        (input1 (sink1On s.chsel) s.sbi v1 { s with chan := c, sbi := s.sbi + 1 })) := by
  have hx : subbandValues s.par g .isx e = .ok (v1, some v2) := by simp only [subbandValues, h1, h2]
  rw [finishSampleSlot_last he hv (fun h => nomatch h.2) hg hm hx, forward_eq, input2_slot, hc]

end LastTurn

/-! ### Sample codes -/

/-- No sample code is shorter than 2 bits (spec/30_encoding.md R119). -/
theorem sampleCode_two_le {i : Instr} {n : Nat} {r : BitVec 15} (h : i.sampleCode = some (n, r)) : 2 ≤ n := by
  cases i <;> simp only [Instr.sampleCode, Option.some.injEq, Prod.mk.injEq, reduceCtorEq] at h <;>
    exact h.1 ▸ by decide

/-- The code that governs a sample code's channel is not 0 (spec/30_encoding.md R123). -/
theorem sampleCode_signalled {i : Instr} {n : Nat} {r : BitVec 15} {a : BitVec 4} (h : i.sampleCode = some (n, r))
    (hn : n = a.toNat + 1) : a ≠ 0#4 := by
  rintro rfl
  exact absurd (sampleCode_two_le h) (by rw [hn]; decide)

/-- A sample code is stored for its channel, and the turn ends (spec/45_samples_sink.md R304, R305). -/
theorem exec_sample_stored {i : Instr} {n : Nat} {r : BitVec 15} {s : State} {e : SubbandRegs} {c : Chan}
    (h : i.sampleCode = some (n, r)) (he : s.sb[s.sbi]? = some e) (hc : s.chan = c) :
    exec i s = finishSampleSlot { s with sb := s.sb.setIfInBounds s.sbi (putRaw c r e) } := by
  subst hc
  rw [exec_sample h, storeSample, withSubband_eq he]
  rfl

/-- Settles O27: the code is stored, and channel 1 of a `Stereo` subband is not its last turn. -/
theorem sampleFirstOfStereo : Obligations.SampleFirstOfStereo := by
  intro i n r s e hi he hv hc
  exact (exec_sample_stored hi he hc).trans (finishSampleSlot_first (sb_set_get _ he) hv hc rfl)

/-- Settles O28: the stored code makes the channel ready, and a `Mono` subband's turn sends its value. -/
theorem sampleOfMono : Obligations.SampleOfMono := by
  intro i n r a x m s e hi he hv hc ha hn hx hg hm
  have ready : ChannelReady s.par e.alloc1 (some r) e.scf1 (dequantized s.par r a x) :=
    .inr ⟨a, r, x, ha, sampleCode_signalled hi hn, rfl, hx, rfl⟩
  exact (exec_sample_stored hi he hc).trans (finishSampleSlot_mono (sb_set_get _ he) hg hm ready.value hv hc)

/-- Settles O29: channel 1 is ready, the stored code makes channel 2 ready, and the turn sends both values. -/
theorem sampleSecondOfStereo : Obligations.SampleSecondOfStereo := by
  intro i n r a x m v1 s e hi he hv hc h1 ha hn hx hg hm
  have ready : ChannelReady s.par e.alloc2 (some r) e.scf2 (dequantized s.par r a x) :=
    .inr ⟨a, r, x, ha, sampleCode_signalled hi hn, rfl, hx, rfl⟩
  exact (exec_sample_stored hi he hc).trans
    (finishSampleSlot_stereo (sb_set_get _ he) hg hm h1.value hv hc ready.value)

/-- Settles O30: the stored code makes the channel ready with each of the two indices, and the turn sends both
values. -/
theorem sampleOfIsx : Obligations.SampleOfIsx := by
  intro i n r a x y m s e hi he hv hc ha hn hx hy hg hm
  have hs := sampleCode_signalled hi hn
  have ready1 : ChannelReady s.par e.alloc1 (some r) e.scf1 (dequantized s.par r a x) :=
    .inr ⟨a, r, x, ha, hs, rfl, hx, rfl⟩
  have ready2 : ChannelReady s.par e.alloc1 (some r) e.scf2 (dequantized s.par r a y) :=
    .inr ⟨a, r, y, ha, hs, rfl, hy, rfl⟩
  exact (exec_sample_stored hi he hc).trans
    (finishSampleSlot_isx (sb_set_get _ he) hg hm ready1.value hv hc ready2.value)

/-! ### Turns without a code -/

/-- Where the gate is closed or the channel is not signalled, no code is read and the turn ends
(spec/45_samples_sink.md R302, R305, R310). -/
theorem step_samples_silent {s : State} {n : Nat} {e : SubbandRegs} {v : Variant} {g : Bool} (ht : s.top = .busy)
    (hp : s.phase = .samples) (hn : s.geo.subbandCount = some n) (hl : s.sbi < n) (he : s.sb[s.sbi]? = some e)
    (hv : e.variant = some v) (hg : s.gateOk = some g) (hs : g = false ∨ allocFor v s.chan e = some 0#4) :
    step s = finishSampleSlot s := by
  have hf : fetch s = .noElement := by
    simp only [fetch, hp, fetchSample, hn, fetchReg_some, if_pos hl, hg, fetchSubband_eq he hv]
    rcases hs with rfl | ha
    · rfl
    · rw [ha]
      cases g <;> rfl
  rw [step_sequencer ht hf, sequencer, hp]
  simp only [stepSamples, hn, require_some, if_pos hl]

/-- Settles O31: no code is read, and the turn ends by the subband's variant, a silent channel contributing +0. -/
theorem silentTurn : Obligations.SilentTurn := by
  intro s n e v g m ht hp hn hl he hv hg hm
  have turn : (g = false ∨ allocFor v s.chan e = some 0#4) → step s = finishSampleSlot s :=
    step_samples_silent ht hp hn hl he hv hg
  refine ⟨?_, ?_, ?_, ?_, ?_, ?_⟩
  · rintro rfl hc hs
    rw [turn (by rwa [hc]), finishSampleSlot_first he hv hc rfl]
  · rintro rfl rfl
    rw [turn (.inl rfl), finishSampleSlot_mono he hg hm (channelValue_closed ..) hv rfl]
  · rintro rfl (rfl | ⟨rfl, hc⟩) <;> rw [turn (.inl rfl)]
    · rw [finishSampleSlot_isx he hg hm (channelValue_closed ..) hv rfl (channelValue_closed ..)]
    · rw [finishSampleSlot_stereo he hg hm (channelValue_closed ..) hv hc (channelValue_closed ..)]
  · rintro rfl rfl hc ha
    exact (turn (.inr ha)).trans (finishSampleSlot_mono he hg hm (ha ▸ channelValue_silent ..) hv hc)
  · rintro rfl rfl hc ha
    exact (turn (.inr ha)).trans
      (finishSampleSlot_isx he hg hm (ha ▸ channelValue_silent ..) hv hc (ha ▸ channelValue_silent ..))
  · rintro v1 rfl rfl hc ha h1
    rw [turn (.inr (by rwa [hc])), finishSampleSlot_stereo he hg hm h1.value hv hc (ha ▸ channelValue_silent ..)]

/-! ### What a turn leaves alone -/

/-- What the end of a turn can do: channel 2 is next, or the subband's values are sent (spec/45_samples_sink.md
R304). -/
theorem finishSampleSlot_next {s t : State} (h : finishSampleSlot s = .next t) :
    ∃ e v, s.sb[s.sbi]? = some e ∧ e.variant = some v ∧
      (t = { s with chan := .ch2 } ∨ ∃ m v1 v2, s.hdr.mode = some m ∧ (v2 = none ↔ v = .mono) ∧
        t = { forward m s.sbi v1 v2 s with chan := .ch1, sbi := s.sbi + 1 }) := by
  obtain ⟨e, he, h⟩ := withSubband_next.1 h
  obtain ⟨v, hv, h⟩ := require_next.1 h
  refine ⟨e, v, he, hv, ?_⟩
  split at h
  · next hc =>
    rw [nextSlot, if_pos ⟨hc.1, rfl⟩] at h
    cases h
    exact .inl rfl
  · unfold emitSubband at h
    obtain ⟨g, -, h⟩ := require_next.1 h
    obtain ⟨m, hm, h⟩ := require_next.1 h
    split at h
    · cases h
    · next v1 v2 hx =>
      dsimp only at h
      rw [nextSlot, if_neg (fun h => nomatch h.2)] at h
      cases h
      exact .inr ⟨m, v1, v2, hm, subbandValues_second hx, by rw [forward_sbi]⟩

/-- What the inputs of subband `i` can change: its entries of the banks, and the history, which grows by them. -/
structure Sent (i : Nat) (s t : State) : Prop where
  hist : ∃ l, t.hist = s.hist ++ l ∧ ∀ x ∈ l, ∃ k v, x = .skInput k i v
  banks : ∀ j, j ≠ i → t.bank1[j]? = s.bank1[j]? ∧ t.bank2[j]? = s.bank2[j]?

/-- Nothing sent. -/
theorem Sent.refl (i : Nat) (s : State) : Sent i s s := ⟨⟨[], (List.append_nil _).symm, nofun⟩, fun _ _ => ⟨rfl, rfl⟩⟩

/-- Inputs one after the other. -/
theorem Sent.trans {i : Nat} {s u t : State} (h1 : Sent i s u) (h2 : Sent i u t) : Sent i s t := by
  obtain ⟨l1, hl1, hx1⟩ := h1.hist
  obtain ⟨l2, hl2, hx2⟩ := h2.hist
  refine ⟨⟨l1 ++ l2, by rw [hl2, hl1, List.append_assoc], fun x hx => ?_⟩, fun j hj => ?_⟩
  · exact (List.mem_append.1 hx).elim (hx1 x) (hx2 x)
  · exact ⟨(h2.banks j hj).1.trans (h1.banks j hj).1, (h2.banks j hj).2.trans (h1.banks j hj).2⟩

/-- An input of sink 1 (spec/20_memory.md R85). -/
theorem input1_sent (on : Bool) (i : Nat) (v : Sample) (s : State) : Sent i s (input1 on i v s) := by
  cases on with
  | false => exact .refl i s
  | true =>
    exact ⟨⟨_, rfl, fun x hx => ⟨.sk1, v, List.mem_singleton.1 hx⟩⟩, fun j hj =>
      ⟨Vector.getElem?_setIfInBounds_ne hj.symm, rfl⟩⟩

/-- An input of sink 2 (spec/20_memory.md R85). -/
theorem input2_sent (on : Bool) (i : Nat) (v : Sample) (s : State) : Sent i s (input2 on i v s) := by
  cases on with
  | false => exact .refl i s
  | true =>
    exact ⟨⟨_, rfl, fun x hx => ⟨.sk2, v, List.mem_singleton.1 hx⟩⟩, fun j hj =>
      ⟨rfl, Vector.getElem?_setIfInBounds_ne hj.symm⟩⟩

/-- The values of a subband are inputs of it (spec/45_samples_sink.md R307 to R309). -/
theorem forward_sent (m : Mode) (i : Nat) (v1 : Sample) (v2 : Option Sample) (s : State) :
    Sent i s (forward m i v1 v2 s) := by
  rw [forward_eq]
  cases v2 with
  | none => exact input1_sent ..
  | some x => exact (input1_sent ..).trans (input2_sent ..)

/-- The end of a turn sends inputs of the subband at `SBI`, and leaves the register file. -/
theorem finishSampleSlot_sent {s t : State} (h : finishSampleSlot s = .next t) : t.sb = s.sb ∧ Sent s.sbi s t := by
  obtain ⟨e, v, -, -, rfl | ⟨m, v1, v2, -, -, rfl⟩⟩ := finishSampleSlot_next h
  · exact ⟨rfl, { Sent.refl s.sbi s with }⟩
  · exact ⟨forward_sb .., { forward_sent m s.sbi v1 v2 s with }⟩

/-- A stored sample code changes only the raw codes. -/
theorem putRaw_eq (c : Chan) (r : BitVec 15) (e : SubbandRegs) :
    putRaw c r e = { e with raw1 := (putRaw c r e).raw1, raw2 := (putRaw c r e).raw2 } := by cases c <;> rfl

/-- Settles O32: the code is stored in the entry at `SBI`, and the end of the turn sends inputs of that subband. -/
theorem sampleFrame : Obligations.SampleFrame := by
  intro i n r s t hi h
  rw [exec_sample hi] at h
  have hframe := storeSample_frame h
  obtain ⟨e, he, h⟩ := withSubband_next.1 h
  obtain ⟨hsb, hsent⟩ := finishSampleSlot_sent h
  rw [setSubband_sb] at hsb
  refine ⟨hframe, fun j hj => ?_, fun e' f he' hf => ?_, hsent.hist, hsent.banks, fun a => by rw [hframe]⟩
  · rw [hsb, Vector.getElem?_setIfInBounds_ne hj.symm]
  · obtain rfl := Option.some.inj (he.symm.trans he')
    rw [hsb, sb_set_get _ he] at hf
    obtain rfl := Option.some.inj hf
    exact putRaw_eq ..

/-! ### The end of a repetition -/

/-- Settles O51: after the last subband the fetch finds no code, and the sequencer flushes the sinks. -/
theorem endOfRepetition : Obligations.EndOfRepetition := by
  intro s n m ht hp hn hle hm
  have hf : fetch s = .noElement := by
    simp only [fetch, hp, fetchSample, hn, fetchReg_some, if_neg (Nat.not_lt.2 hle)]
  have hstep : step s = endRepetition s := by
    rw [step_sequencer ht hf, sequencer, hp]
    simp only [stepSamples, hn, require_some, if_neg (Nat.not_lt.2 hle)]
  simp only [hstep, endRepetition, hm, require_some, flushSinks_eq]
  exact ⟨fun hlt => if_pos hlt, fun hge => if_neg (Nat.not_lt.2 hge)⟩

end Sys2Proof.Machine
end

section
/-! PROOFS. What the sinks receive in a frame (spec/45_samples_sink.md R315): before the sample phase no step sends
anything; in it each turn's end adds one input at an enabled sink and each repetition's end one flush; and no code of
the sample phase is read past the body, so a command ends with an exception only where nothing was sent. -/

namespace Sys2Proof.Machine

open Sys2Proof

variable {k : SinkId}

/-! ### Histories without a sink's events -/

/-- No input and no flush of sink `k` in a history. -/
def NoSinkEvents (k : SinkId) (hist : List Event) : Prop := inputCount k hist = 0 ∧ flushCount k hist = 0

/-- The inputs of a history that grows. -/
theorem inputCount_append (k : SinkId) (l l' : List Event) :
    inputCount k (l ++ l') = inputCount k l + inputCount k l' := List.countP_append

/-- The flushes of a history that grows. -/
theorem flushCount_append (k : SinkId) (l l' : List Event) :
    flushCount k (l ++ l') = flushCount k l + flushCount k l' := List.countP_append

/-- A history that grows by no event of the sink. -/
theorem NoSinkEvents.append {l l' : List Event} (h : NoSinkEvents k l) (h' : NoSinkEvents k l') :
    NoSinkEvents k (l ++ l') :=
  ⟨by rw [inputCount_append, h.1, h'.1], by rw [flushCount_append, h.2, h'.2]⟩

/-- The lookahead's events are the reader's (spec/20_memory.md R79). -/
theorem noSinkEvents_peeks {l : List Event} (h : ∀ x ∈ l, ∃ a, x = .rdPeekSync a) : NoSinkEvents k l := by
  constructor
  all_goals
    refine List.countP_eq_zero.2 fun x hx => ?_
    obtain ⟨a, rfl⟩ := h x hx
    exact nofun

/-- An exception sends no sink anything (spec/60_exceptions.md R383). -/
theorem NoSinkEvents.raised {s : State} (h : NoSinkEvents k s.hist) (x : Exc) : NoSinkEvents k (raise x s).hist := by
  rw [raise_eq]
  dsimp only
  split
  · exact h.append ⟨rfl, rfl⟩
  · exact h

/-! ### What a step has to leave -/

/-- The counts of a state that a step of a running command leaves: in a running command those of its phase, at its end
those of a complete frame or, after an exception, none (spec/45_samples_sink.md R315, spec/60_exceptions.md R383). -/
structure CountsKept (k : SinkId) (t : State) : Prop where
  running : t.top = .busy → SinkCounts k t
  ended : t.top ≠ .busy →
    (t.last = .frameDone ∧ ∀ m, t.hdr.mode = some m →
      inputCount k t.hist = (if sinkEnabled k t.chsel m then 384 else 0) ∧
      flushCount k t.hist = (if sinkEnabled k t.chsel m then 12 else 0)) ∨
    ((∃ x, t.last = .exc x) ∧ NoSinkEvents k t.hist)

/-- A phase before the samples. -/
def Early (p : Phase) : Prop := p ≠ .samples ∧ p ≠ .done

/-- Before the sample phase the counts are that nothing was sent. -/
theorem sinkCounts_early {s : State} (hp : Early s.phase) : SinkCounts k s ↔ NoSinkEvents k s.hist := by
  unfold SinkCounts
  split
  · next h => exact absurd h hp.1
  · next h => exact absurd h hp.2
  · rfl

/-- The counts in the sample phase. -/
theorem sinkCounts_samples {s : State} (hp : s.phase = .samples) :
    SinkCounts k s ↔ ∀ m, s.hdr.mode = some m →
      inputCount k s.hist = (if sinkEnabled k s.chsel m then 32 * s.rep + s.sbi else 0) ∧
      flushCount k s.hist = (if sinkEnabled k s.chsel m then s.rep else 0) := by
  simp only [SinkCounts, hp]

/-- A running command has the counts of its phase. -/
theorem SinkCounts.kept {t : State} (h : SinkCounts k t) (ht : t.top = .busy) : CountsKept k t :=
  ⟨fun _ => h, fun hne => absurd ht hne⟩

/-- A command that goes on before the sample phase, with nothing sent. -/
theorem NoSinkEvents.kept {t : State} (h : NoSinkEvents k t.hist) (ht : t.top = .busy) (hp : Early t.phase) :
    CountsKept k t := ((sinkCounts_early hp).2 h).kept ht

/-- An exception where nothing was sent. -/
theorem NoSinkEvents.keptRaised {s : State} {x : Exc} (h : NoSinkEvents k s.hist) : CountsKept k (raise x s) :=
  ⟨fun ht => absurd ht (raise_not_busy x s), fun _ => .inr ⟨⟨x, raise_last x s⟩, h.raised x⟩⟩

/-! ### Before the sample phase -/

/-- The sample phase begins with nothing sent (spec/45_samples_sink.md R304). -/
theorem NoSinkEvents.starts {t : State} (h : NoSinkEvents k t.hist) (hp : t.phase = .samples) (hr : t.rep = 0)
    (hi : t.sbi = 0) : SinkCounts k t := by
  refine (sinkCounts_samples hp).2 fun m _ => ?_
  rw [h.1, h.2, hr, hi]
  exact ⟨(ite_self _).symm, (ite_self _).symm⟩

/-- A step before the sample phase sends nothing, and begins that phase at repetition 0, subband 0. -/
theorem step_early_counts {s t : State} (ht : s.top = .busy) (hp : Early s.phase) (hs : NoSinkEvents k s.hist)
    (h : step s = .next t) : CountsKept k t := by
  cases hq : s.phase with
  | sync =>
    rcases step_sync_next ht hq h with ⟨w, p, rfl⟩ | ⟨p, f, a, rfl⟩
    · exact NoSinkEvents.kept (hs.append ⟨rfl, rfl⟩) ht ⟨nofun, nofun⟩
    · exact NoSinkEvents.keptRaised (hs.append ⟨rfl, rfl⟩)
  | header =>
    obtain ⟨w, -, -, rfl⟩ := step_header_next ht hq h
    rcases headerWord_shape (headerFieldsOf w) s with ⟨r, g, h1⟩ | ⟨x, r, h1⟩ <;> rw [h1]
    · exact NoSinkEvents.kept hs ht ⟨nofun, nofun⟩
    · exact NoSinkEvents.keptRaised hs
  | body =>
    obtain ⟨n, -, ⟨-, rfl⟩ | ⟨-, -, rfl⟩ | ⟨-, -, rfl⟩⟩ := step_body_next ht hq h
    · exact NoSinkEvents.keptRaised (hs.append ⟨rfl, rfl⟩)
    · exact NoSinkEvents.kept (hs.append ⟨rfl, rfl⟩) ht ⟨nofun, nofun⟩
    · exact NoSinkEvents.kept (hs.append ⟨rfl, rfl⟩) ht ⟨nofun, nofun⟩
  | validate =>
    rcases step_validate_next ht hq h with ⟨-, w, -, rfl⟩ | ⟨-, l, rfl, hl⟩ | ⟨-, a, rfl⟩
    · exact NoSinkEvents.kept hs ht ⟨nofun, nofun⟩
    · exact NoSinkEvents.kept (hs.append (noSinkEvents_peeks hl)) ht ⟨nofun, nofun⟩
    · exact NoSinkEvents.kept (hs.append ⟨rfl, rfl⟩) ht ⟨nofun, nofun⟩
  | crcw =>
    rcases step_crcw_next ht hq h with ⟨-, rfl⟩ | ⟨-, rfl | ⟨w, -, -, rfl⟩⟩
    · exact NoSinkEvents.kept hs ht ⟨nofun, nofun⟩
    · exact hs.keptRaised
    · exact NoSinkEvents.kept (hs.append ⟨rfl, rfl⟩) ht ⟨nofun, nofun⟩
  | vbr =>
    rcases step_vbr_next ht hq h with
      ⟨-, r, -, ⟨p, rfl⟩ | rfl⟩ | ⟨-, -, rfl⟩ | ⟨p, rfl⟩ | ⟨-, -, rfl⟩ | ⟨-, rfl⟩
    · exact NoSinkEvents.kept hs ht hp
    · exact NoSinkEvents.keptRaised hs
    · exact NoSinkEvents.kept hs ht hp
    · exact NoSinkEvents.kept hs ht hp
    · exact NoSinkEvents.kept hs ht ⟨nofun, nofun⟩
    · exact hs.keptRaised
  | construct =>
    obtain ⟨m, b, n, -, -, -, rfl⟩ := step_construct_next ht hq h
    exact NoSinkEvents.kept hs ht ⟨nofun, nofun⟩
  | alloc =>
    obtain ⟨n, -, ⟨-, h⟩ | ⟨-, h | h | h⟩⟩ := step_alloc_next ht hq h <;> rw [h]
    · exact NoSinkEvents.kept hs ht ⟨nofun, nofun⟩
    · exact hs.keptRaised
    · exact NoSinkEvents.keptRaised (hs.append ⟨rfl, rfl⟩)
    · exact NoSinkEvents.kept (hs.append ⟨rfl, rfl⟩) ht hp
  | scf =>
    obtain ⟨n, -, ⟨-, h⟩ | ⟨-, h | h | h⟩⟩ := step_scf_next ht hq h <;> rw [h]
    · exact NoSinkEvents.kept hs ht ⟨nofun, nofun⟩
    · exact hs.keptRaised
    · exact NoSinkEvents.kept (hs.append ⟨rfl, rfl⟩) ht hp
    · exact NoSinkEvents.kept hs ht hp
  | gate =>
    rcases step_gate_next ht hq h with rfl | rfl | rfl
    · exact SinkCounts.kept (NoSinkEvents.starts (hs.append ⟨rfl, rfl⟩) rfl rfl rfl) ht
    · exact SinkCounts.kept (NoSinkEvents.starts hs rfl rfl rfl) ht
    · exact NoSinkEvents.keptRaised hs
  | samples => exact absurd hq hp.1
  | done => exact absurd hq hp.2

/-! ### Inputs and flushes, counted -/

/-- Where the subband has a second value, or the mode one channel, an enabled sink gets one input
(spec/45_samples_sink.md R303, R307 to R309). -/
theorem forward_counts {m : Mode} {v2 : Option Sample} (k : SinkId) (i : Nat) (v1 : Sample) (s : State)
    (h : v2 = none → m = .singleChannel) :
    inputCount k (forward m i v1 v2 s).hist = inputCount k s.hist + (if sinkEnabled k s.chsel m then 1 else 0) ∧
      flushCount k (forward m i v1 v2 s).hist = flushCount k s.hist := by
  have one : ∀ (on : Bool) (u : State), (input1 on i v1 u).hist = u.hist ++ (if on then [.skInput .sk1 i v1] else []) :=
    fun on u => by cases on <;> simp [input1]
  have two : ∀ (on : Bool) (x : Sample) (u : State),
      (input2 on i x u).hist = u.hist ++ (if on then [.skInput .sk2 i x] else []) :=
    fun on x u => by cases on <;> simp [input2]
  rw [forward_eq]
  cases v2 with
  | none =>
    rw [h rfl]
    dsimp only
    rw [one, inputCount_append, flushCount_append]
    cases k <;> cases s.chsel <;> exact ⟨rfl, rfl⟩
  | some x =>
    dsimp only
    rw [two, one, inputCount_append, inputCount_append, flushCount_append, flushCount_append]
    cases k <;> cases s.chsel <;> cases m <;> exact ⟨rfl, rfl⟩

/-- The end of a repetition flushes each enabled sink once (spec/45_samples_sink.md R311). -/
theorem flushSinks_counts (k : SinkId) (m : Mode) (s : State) :
    inputCount k (flushSinks m s).hist = inputCount k s.hist ∧
      flushCount k (flushSinks m s).hist = flushCount k s.hist + (if sinkEnabled k s.chsel m then 1 else 0) := by
  have hist : (flushSinks m s).hist = s.hist ++
      ((if sink1On s.chsel then [.skFlush .sk1] else []) ++ (if sink2On s.chsel m then [.skFlush .sk2] else [])) := by
    rw [flushSinks_eq]
    cases sink1On s.chsel <;> cases sink2On s.chsel m <;> simp [flush1, flush2]
  rw [hist, inputCount_append, flushCount_append]
  cases k <;> cases s.chsel <;> cases m <;> exact ⟨rfl, rfl⟩

/-! ### The sample phase -/

/-- Only a frame of one channel has `Mono` subbands (spec/44_alloc_scf.md R271). -/
theorem ConstructedFor.mono {s : State} {i : Nat} {e : SubbandRegs} {m : Mode} (hcon : ConstructedFor s)
    (he : s.sb[i]? = some e) (hv : e.variant = some .mono) (hm : s.hdr.mode = some m) : m = .singleChannel := by
  obtain ⟨-, -, m', b, hm', -, hvar⟩ := hcon
  obtain ⟨hi, rfl⟩ := Vector.getElem?_eq_some_iff.1 he
  obtain rfl := Option.some.inj (hm.symm.trans hm')
  have hmono := Option.some.inj ((hvar i hi).symm.trans hv)
  unfold variantOf at hmono
  split at hmono
  · rfl
  · split at hmono <;> cases hmono
  · cases hmono
  · cases hmono

/-- The end of a turn keeps the counts: they grow with `SBI` (spec/45_samples_sink.md R304, R307 to R309). -/
theorem finishSampleSlot_counts {s t : State} (hp : s.phase = .samples) (hcon : ConstructedFor s)
    (hs : SinkCounts k s) (h : finishSampleSlot s = .next t) : SinkCounts k t := by
  rw [sinkCounts_samples hp] at hs
  obtain ⟨e, v, he, hv, rfl | ⟨m, v1, v2, hm, h2, rfl⟩⟩ := finishSampleSlot_next h
  · exact (sinkCounts_samples hp).2 hs
  · obtain ⟨hin, hfl⟩ := forward_counts k s.sbi v1 s fun hnone => hcon.mono he (h2.1 hnone ▸ hv) hm
    obtain ⟨hin0, hfl0⟩ := hs m hm
    refine Iff.mpr (sinkCounts_samples (by exact (forward_phase ..).trans hp)) fun m' hm' => ?_
    simp only [forward_hdr, forward_chsel, forward_rep] at hm' ⊢
    obtain rfl := Option.some.inj (hm.symm.trans hm')
    rw [hin, hfl, hin0, hfl0]
    refine ⟨?_, rfl⟩
    split
    · exact Nat.add_assoc ..
    · rfl

/-- Taking a code's bits keeps the counts (spec/20_memory.md R77). -/
theorem SinkCounts.taken {s : State} (hs : SinkCounts k s) (hp : s.phase = .samples) (b n : Nat) :
    SinkCounts k { s with bitpos := b, hist := s.hist ++ [.getBits n] } := by
  rw [sinkCounts_samples hp] at hs
  refine Iff.mpr (sinkCounts_samples (by exact hp)) fun m hm => ?_
  exact ⟨(inputCount_append ..).trans (hs m hm).1, (flushCount_append ..).trans (hs m hm).2⟩

/-- A sample code keeps the counts (spec/45_samples_sink.md R305). -/
theorem storeSample_counts {s t : State} {r : BitVec 15} (h : storeSample r s = .next t) (hp : s.phase = .samples)
    (hcon : ConstructedFor s) (hs : SinkCounts k s) : SinkCounts k t := by
  obtain ⟨e, he, h⟩ := withSubband_next.1 h
  have hcon' : ConstructedFor (setSubband s.sbi (putRaw s.chan r e) s) :=
    hcon.set he (by rw [putRaw_eq]) rfl rfl rfl
  exact finishSampleSlot_counts (s := setSubband s.sbi (putRaw s.chan r e) s) hp hcon' hs h

/-- The end of a repetition keeps the counts: 32 inputs and one flush a repetition, 384 and 12 after the twelfth
(spec/45_samples_sink.md R304, R311, R315). -/
theorem endRepetition_counts {s t : State} (hp : s.phase = .samples) (hi : s.sbi = 32) (hr : s.rep < 12)
    (hs : SinkCounts k s) (h : endRepetition s = .next t) : t.top = s.top ∧ SinkCounts k t := by
  obtain ⟨m, hm, hcase⟩ := endRepetition_next h
  obtain ⟨hin, hfl⟩ := flushSinks_counts k m s
  obtain ⟨hin0, hfl0⟩ := (sinkCounts_samples hp).1 hs m hm
  rw [hin0] at hin
  rw [hfl0] at hfl
  have same : ∀ m', (flushSinks m s).hdr.mode = some m' → m = m' := fun m' hm' =>
    Option.some.inj (hm.symm.trans ((congrArg HeaderRegs.mode (flushSinks_hdr s m)).symm.trans hm'))
  rcases hcase with ⟨-, rfl⟩ | ⟨hge, rfl⟩
  · refine ⟨flushSinks_top .., Iff.mpr (sinkCounts_samples (by exact (flushSinks_phase ..).trans hp)) fun m' hm' => ?_⟩
    obtain rfl := same m' hm'
    simp only [hin, hfl, flushSinks_chsel]
    split <;> omega
  · refine ⟨flushSinks_top .., fun m' hm' => ?_⟩
    obtain rfl := same m' hm'
    simp only [hin, hfl, flushSinks_chsel]
    split <;> omega

/-! ### No code is read past the body -/

/-- `W` over some of the subbands is at most `W` over more of them (spec/45_samples_sink.md R318). -/
theorem totalBits_le {sb : Vector SubbandRegs 32} {n j p w : Nat} (hp : totalBits sb n = some p)
    (hw : totalBits sb (n + j) = some w) : p ≤ w := by
  induction j generalizing w with
  | zero => exact (Option.some.inj (hp.symm.trans hw)).le
  | succ j ih =>
    rw [← Nat.add_assoc, totalBits] at hw
    split at hw
    · next w' b hw' hb =>
      cases hw
      exact (ih hw').trans (Nat.le_add_right ..)
    · cases hw

/-- What was read in a subband and its turn's code are among the bits it asks for (spec/45_samples_sink.md R318). -/
theorem subbandBits_turn {s : State} {e : SubbandRegs} {v : Variant} {a : BitVec 4} (hat : SlotAt s e v a)
    (hst : s.chan = .ch2 → v = .stereo) : ∃ b, subbandBits e = some b ∧ readInSubband s + codeBits a ≤ b := by
  by_cases hfirst : s.chan = .ch1 ∧ secondAlloc v = true
  · obtain ⟨hc, hv2⟩ := hfirst
    obtain rfl := secondAlloc_iff.1 hv2
    have ha : e.alloc1 = some a := by rw [← hat.code, hc]; rfl
    obtain ⟨a2, ha2, -⟩ := allocFor_of_read hat.read hat.variant .ch2
    have ha2 : e.alloc2 = some a2 := ha2
    refine ⟨codeBits a + codeBits a2, by simp only [subbandBits, hat.variant, ha, ha2], ?_⟩
    rw [readInSubband_ch1 hc]
    omega
  · exact ⟨_, subbandBits_last hat hst fun hc => by simpa [hc] using hfirst, Nat.le_refl _⟩

/-- Where the gate is open the code of every turn lies inside the body, as `LENGTH_CHECK` has tested
(spec/45_samples_sink.md R318). -/
theorem SampleProgress.fits {s : State} {e : SubbandRegs} {v : Variant} {a : BitVec 4} (hpr : SampleProgress s)
    (hat : SlotAt s e v a) (hg : s.gateOk = some true) : s.bitpos + codeBits a ≤ 8 * s.fb.length := by
  obtain ⟨hrep, g, hgate, hsecond, hlen⟩ := hpr
  obtain rfl := Option.some.inj (hgate.symm.trans hg)
  obtain ⟨w, p, hw, hp, hle⟩ := hlen rfl
  have hst : s.chan = .ch2 → v = .stereo := fun hc => by
    obtain ⟨hk, hst, -⟩ := hsecond hc
    obtain ⟨_, rfl⟩ := Vector.getElem?_eq_some_iff.1 hat.entry
    exact Option.some.inj (hat.variant.symm.trans hst)
  obtain ⟨b, hb, hturn⟩ := subbandBits_turn hat hst
  have hlt := hat.lt
  have hall : p + b ≤ w := totalBits_le (j := 31 - s.sbi) (totalBits_succ hp hat.entry hb)
    (by rwa [show s.sbi + 1 + (31 - s.sbi) = 32 by omega])
  have hone : w ≤ (12 - s.rep) * w := Nat.le_mul_of_pos_left w (by omega)
  omega

/-- A step in the sample phase keeps the counts, and does not end the command. -/
theorem step_samples_counts {s t : State} (hi : Inv s) (ht : s.top = .busy) (hp : s.phase = .samples)
    (hs : SinkCounts k s) (h : step s = .next t) : CountsKept k t := by
  have hsbi := hi.sbi
  have hph := hi.phase ht
  rw [PhaseInv, hp] at hph
  obtain ⟨-, -, -, hcon, hall, -, hpr⟩ := hph
  obtain ⟨n, hn, hcase⟩ := step_samples_next ht hp h
  obtain rfl := Option.some.inj (hn.symm.trans hcon.2.1)
  rcases hcase with ⟨hle, h⟩ | ⟨-, h⟩ | ⟨hlt, ⟨e, v, a, he, hv, hg, ha, hsig, hover⟩, -⟩ | ⟨-, j, r, h⟩
  · obtain ⟨htop, hc⟩ := endRepetition_counts hp (by omega) hpr.1 hs h
    exact hc.kept (htop.trans ht)
  · exact (finishSampleSlot_counts hp hcon hs h).kept (by rw [finishSampleSlot_frame h]; exact ht)
  · obtain ⟨v', a', hat⟩ := slotAt_of_allAlloc hcon hall hlt
    obtain rfl := Option.some.inj (he.symm.trans hat.entry)
    obtain rfl := Option.some.inj (hv.symm.trans hat.variant)
    obtain rfl := Option.some.inj (ha.symm.trans hat.code)
    have hfits := hpr.fits hat hg
    rw [codeBits_signalled hsig] at hfits
    exact absurd hover (Nat.not_lt.2 hfits)
  · exact (storeSample_counts h hp hcon (hs.taken hp ..)).kept (by rw [storeSample_frame h]; exact ht)

/-! ### The whole frame -/

/-- The end of a frame sends nothing more (spec/46_frame_loop_host.md R343, R345). -/
theorem finishFrame_counts {s : State} (hp : s.phase = .done) (hs : SinkCounts k s) : CountsKept k (finishFrame s) := by
  refine ⟨nofun, fun _ => .inl ⟨rfl, fun m hm => ?_⟩⟩
  simp only [SinkCounts, hp] at hs
  obtain ⟨hin, hfl⟩ := hs m hm
  exact ⟨(inputCount_append ..).trans hin, (flushCount_append ..).trans hfl⟩

/-- A host action that leaves a running command is the start of a frame, with nothing sent
(spec/46_frame_loop_host.md R343). -/
theorem hostAction_counts {a : HostAction} {s : State} (ht : s.top ≠ .busy) (hb : (hostAction a s).top = .busy) :
    SinkCounts k (hostAction a s) := by
  cases a with
  | decodeFrame =>
    simp only [hostAction, decodeFrame] at hb ⊢
    split at hb
    · next hidle =>
      rw [if_pos hidle]
      exact ⟨rfl, rfl⟩
    · exact absurd hb ht
  | setChannels c =>
    simp only [hostAction, setChannels] at hb
    split at hb <;> exact absurd hb ht
  | reset => cases hb
  | attach bytes endless pos => exact absurd hb ht
  | moveReader pos => exact absurd hb ht

/-- Settles O60: a running command's steps keep the counts phase by phase, and the host only begins a frame. -/
theorem sinkEventsCounted : Obligations.SinkEventsCounted := by
  intro k s t hi hs h
  by_cases ht : s.top = .busy
  · have hkept : CountsKept k t := by
      by_cases hp : Early s.phase
      · exact step_early_counts ht hp ((sinkCounts_early hp).1 (hs ht)) h
      · by_cases hsamples : s.phase = .samples
        · exact step_samples_counts hi ht hsamples (hs ht) h
        · have hdone : s.phase = .done := by_contra fun hd => hp ⟨hsamples, hd⟩
          rw [step_done_next ht hdone h]
          exact finishFrame_counts hdone (hs ht)
    exact ⟨hkept.running, fun _ => hkept.ended⟩
  · refine ⟨fun hb => ?_, fun hbusy => absurd hbusy ht⟩
    rw [step_idle ht] at h
    cases h
    unfold hostStep at hb ⊢
    split at hb
    · exact absurd hb ht
    · exact hostAction_counts ht hb

end Sys2Proof.Machine
end

section
/-! PROOFS. Rounding: to nearest even takes a nearest natural, which bounds the error of a binary32 number by half a unit
of its last bit; exact rationals are not rounded. -/

namespace Sys2Proof.Machine

open Sys2Proof

/-! ### Rounding a quotient to a natural -/

/-- Nothing lies above an exact quotient, so no rounding takes the greater neighbour. -/
theorem roundsUp_exact (mode : Rounding) (negative : Bool) (q : Nat) {unit : Nat} (hu : 0 < unit) :
    roundsUp mode negative q 0 unit = false := by
  cases mode <;> simp [roundsUp] <;> omega

/-- Every rounding is exact where the quotient is (spec/45_samples_sink.md R313). -/
theorem roundQuotient_exact (mode : Rounding) (negative : Bool) {m unit : Nat} (hu : 0 < unit) (h : unit ∣ m) :
    roundQuotient mode negative m unit * unit = m := by
  rw [roundQuotient, Nat.mod_eq_zero_of_dvd h, roundsUp_exact mode negative _ hu]
  exact Nat.div_mul_cancel h

/-- Rounding to nearest even by what lies above the lesser neighbour: less than half a unit, or half a unit over an
even one; more than half, or half a unit over an odd one (spec/45_samples_sink.md R313). -/
theorem roundQuotient_nearestEven (negative : Bool) (m unit : Nat) :
    (roundQuotient .nearestEven negative m unit = m / unit ∧
        (2 * (m % unit) < unit ∨ (2 * (m % unit) = unit ∧ m / unit % 2 = 0))) ∨
      (roundQuotient .nearestEven negative m unit = m / unit + 1 ∧
        (unit < 2 * (m % unit) ∨ (2 * (m % unit) = unit ∧ m / unit % 2 = 1))) := by
  simp only [roundQuotient, roundsUp, Bool.or_eq_true, Bool.and_eq_true, decide_eq_true_eq]
  split
  · exact .inr ⟨rfl, ‹_›⟩
  · exact .inl ⟨rfl, by omega⟩

/-- Rounding to nearest even takes a nearest natural, of two equally near the even one. -/
theorem roundQuotient_nearest (negative : Bool) {m unit : Nat} (hu : 0 < unit) :
    2 * m ≤ 2 * (roundQuotient .nearestEven negative m unit * unit) + unit ∧
    2 * (roundQuotient .nearestEven negative m unit * unit) ≤ 2 * m + unit ∧
    (2 * m = 2 * (roundQuotient .nearestEven negative m unit * unit) + unit ∨
      2 * (roundQuotient .nearestEven negative m unit * unit) = 2 * m + unit →
        roundQuotient .nearestEven negative m unit % 2 = 0) := by
  have hm : m / unit * unit + m % unit = m := Nat.div_add_mod' m unit
  have hr : m % unit < unit := Nat.mod_lt m hu
  rcases roundQuotient_nearestEven negative m unit with ⟨h, hcase⟩ | ⟨h, hcase⟩ <;> rw [h]
  · omega
  · rw [Nat.add_mul, Nat.one_mul]
    omega

/-- A quotient between two naturals is rounded to one between them. -/
theorem roundQuotient_mem {lo hi m unit : Nat} (mode : Rounding) (negative : Bool) (hu : 0 < unit)
    (hlo : lo * unit ≤ m) (hhi : m < hi * unit) :
    lo ≤ roundQuotient mode negative m unit ∧ roundQuotient mode negative m unit ≤ hi := by
  have h1 : lo ≤ m / unit := (Nat.le_div_iff_mul_le hu).2 hlo
  have h2 : m / unit < hi := (Nat.div_lt_iff_lt_mul hu).2 hhi
  unfold roundQuotient
  split <;> omega

/-- The error of rounding to nearest is half a unit at most. -/
theorem roundQuotient_error (negative : Bool) {m unit : Nat} (hu : 0 < unit) :
    2 * |(roundQuotient .nearestEven negative m unit : Rat) - m / unit| ≤ 1 := by
  obtain ⟨h1, h2, -⟩ := roundQuotient_nearest negative (m := m) hu
  generalize roundQuotient .nearestEven negative m unit = x at *
  have hq : (0 : Rat) < unit := by exact_mod_cast hu
  have h1 : (2 * m : Rat) ≤ 2 * (x * unit) + unit := by exact_mod_cast h1
  have h2 : (2 * (x * unit) : Rat) ≤ 2 * m + unit := by exact_mod_cast h2
  have hm : (m : Rat) / unit * unit = m := div_mul_cancel₀ _ hq.ne'
  rw [← abs_two, ← abs_mul, abs_le]
  constructor <;> nlinarith

/-! ### Rounding to binary32 -/

/-- The magnitude of a rational by its numerator and denominator. -/
theorem abs_eq_natAbs_div (q : Rat) : |q| = (q.num.natAbs : Rat) / q.den := by
  rw [Nat.cast_natAbs, Int.cast_abs, ← Nat.abs_cast q.den, ← abs_div, Rat.num_div_den]

/-- A rational by its sign and its magnitude. -/
theorem sign_mul_abs (q : Rat) : (if decide (q.num < 0) then -1 else 1) * |q| = q := by
  by_cases h : q.num < 0
  · simp [h, abs_of_neg (Rat.num_neg.1 h)]
  · simp [h, abs_of_nonneg (not_lt.1 fun hq => h (Rat.num_neg.2 hq))]

/-- The quotient that `roundBinary` rounds is the magnitude in units of `2^e`. -/
theorem scaled_quotient (n d : Nat) (e : Int) :
    ((n * 2 ^ (-e).toNat : Nat) : Rat) / ((d * 2 ^ e.toNat : Nat) : Rat) = (n : Rat) / d / 2 ^ e := by
  rw [two_zpow_eq]
  push_cast
  field_simp

/-- Where the leading bit is neither below the normal numbers nor at the greatest exponent, rounding to nearest even
gives a mantissa of one bit more than the fraction field, nearest to the magnitude (spec/45_samples_sink.md R313). -/
theorem roundBinary_normal {f : BinaryFormat} (hf : f.rounding = .nearestEven) {q : Rat} (hq : q ≠ 0) {e : Int}
    (he : e = leadingExp q.num.natAbs q.den - f.fracBits) (hleast : leastExp f ≤ e)
    (hlimit : f.fracBits + 1 + e < exponentLimit f) (zeroNegative : Bool) :
    ∃ m : Nat, roundBinary f zeroNegative q = .number (dyadic (decide (q.num < 0)) m e) ∧
      2 ^ f.fracBits ≤ m ∧ m ≤ 2 ^ (f.fracBits + 1) ∧ 2 * |(m : Rat) - |q| / (2 : Rat) ^ e| ≤ 1 := by
  have hn : 0 < q.num.natAbs := Int.natAbs_pos.2 (Rat.num_ne_zero.2 hq)
  have hunit : 0 < q.den * 2 ^ e.toNat := Nat.mul_pos q.den_pos (Nat.two_pow_pos _)
  have hunitq : (0 : Rat) < (q.den * 2 ^ e.toNat : Nat) := by exact_mod_cast hunit
  have hpow : (0 : Rat) < (2 : Rat) ^ e := zpow_pos two_pos e
  have hscaled := scaled_quotient q.num.natAbs q.den e
  rw [← abs_eq_natAbs_div] at hscaled
  obtain ⟨hlo, hhi⟩ := leadingExp_spec hn q.den_pos
  rw [← abs_eq_natAbs_div, show leadingExp q.num.natAbs q.den = f.fracBits + e by omega] at hlo hhi
  have hlo : 2 ^ f.fracBits * (q.den * 2 ^ e.toNat) ≤ q.num.natAbs * 2 ^ (-e).toNat := by
    have : (2 : Rat) ^ f.fracBits ≤ |q| / 2 ^ e := by
      rwa [le_div_iff₀ hpow, ← zpow_natCast, ← zpow_add₀ two_ne_zero]
    rw [← hscaled, le_div_iff₀ hunitq] at this
    exact_mod_cast this
  have hhi : q.num.natAbs * 2 ^ (-e).toNat < 2 ^ (f.fracBits + 1) * (q.den * 2 ^ e.toNat) := by
    have : |q| / 2 ^ e < (2 : Rat) ^ (f.fracBits + 1) := by
      rw [div_lt_iff₀ hpow, ← zpow_natCast, ← zpow_add₀ two_ne_zero]
      rwa [Nat.cast_add, Nat.cast_one, add_right_comm]
    rw [← hscaled, div_lt_iff₀ hunitq] at this
    exact_mod_cast this
  obtain ⟨hmlo, hmhi⟩ := roundQuotient_mem .nearestEven (decide (q.num < 0)) hunit hlo hhi
  have herror := roundQuotient_error (decide (q.num < 0)) (m := q.num.natAbs * 2 ^ (-e).toNat) hunit
  rw [hscaled] at herror
  unfold roundBinary
  dsimp only
  rw [if_neg hn.ne', ← he, max_eq_left hleast, hf]
  generalize roundQuotient .nearestEven (decide (q.num < 0)) (q.num.natAbs * 2 ^ (-e).toNat) (q.den * 2 ^ e.toNat) = m
    at *
  have hm0 : m ≠ 0 := by have := Nat.two_pow_pos f.fracBits; omega
  have hlog : m.log2 < f.fracBits + 2 := (Nat.log2_lt hm0).2 (hmhi.trans_lt (Nat.pow_lt_pow_succ one_lt_two))
  exact ⟨m, by rw [if_neg hm0, if_neg (by omega)], hmlo, hmhi, herror⟩

/-- The binary32 numbers from `2^-126` to `2^127` in magnitude are normal (spec/45_samples_sink.md R313). -/
theorem binary32_normal {q : Rat} (hlo : (2 : Rat) ^ (-126 : Int) ≤ |q|) (hhi : |q| < (2 : Rat) ^ (127 : Int)) :
    q ≠ 0 ∧ leastExp binary32 ≤ leadingExp q.num.natAbs q.den - 23 ∧
      23 + 1 + (leadingExp q.num.natAbs q.den - 23) < exponentLimit binary32 := by
  have hq : q ≠ 0 := by
    rintro rfl
    exact absurd hlo (not_le.2 (by simp))
  obtain ⟨h1, h2⟩ := leadingExp_spec (Int.natAbs_pos.2 (Rat.num_ne_zero.2 hq)) q.den_pos
  rw [← abs_eq_natAbs_div] at h1 h2
  have hmin := (zpow_lt_zpow_iff_right₀ (one_lt_two (α := Rat))).1 (hlo.trans_lt h2)
  have hmax := (zpow_lt_zpow_iff_right₀ (one_lt_two (α := Rat))).1 (h1.trans_lt hhi)
  have hleast : leastExp binary32 = -149 := by decide
  have hlimit : exponentLimit binary32 = 128 := by decide
  exact ⟨hq, by omega, by omega⟩

/-- A dyadic number with the sign of `q` is as far from `q` as its mantissa from the magnitude, in units of `2^e`. -/
theorem dyadic_error (q : Rat) (m : Nat) (e : Int) :
    |dyadic (decide (q.num < 0)) m e| = m * (2 : Rat) ^ e ∧
      |dyadic (decide (q.num < 0)) m e - q| = |(m : Rat) - |q| / 2 ^ e| * 2 ^ e := by
  have hpow : (0 : Rat) < (2 : Rat) ^ e := zpow_pos two_pos e
  have hsign : |(if decide (q.num < 0) then -1 else 1 : Rat)| = 1 := by split <;> simp
  constructor
  · rw [dyadic_eq, abs_mul, abs_mul, hsign, one_mul, Nat.abs_cast, abs_of_pos hpow]
  · calc |dyadic (decide (q.num < 0)) m e - q|
        = |(if decide (q.num < 0) then -1 else 1) * (m * (2 : Rat) ^ e - |q|)| := by
          rw [mul_sub, sign_mul_abs, dyadic_eq, mul_assoc]
      _ = |(m : Rat) * 2 ^ e - (|q|)| := by rw [abs_mul, hsign, one_mul]
      _ = |((m : Rat) - |q| / 2 ^ e) * 2 ^ e| := by rw [sub_mul, div_mul_cancel₀ _ hpow.ne']
      _ = |(m : Rat) - |q| / 2 ^ e| * 2 ^ e := by rw [abs_mul, abs_of_pos hpow]

/-! ### Exact rationals -/

/-- Multiplication of exact rationals (spec/45_samples_sink.md R313). -/
theorem sampleMul_exact (a b : Rat) : sampleMul .exact (.number a) (.number b) = .number (a * b) := by
  rw [← exactProduct_eq]
  rfl

/-- Addition of exact rationals (spec/45_samples_sink.md R313). -/
theorem sampleAdd_exact (a b : Rat) : sampleAdd .exact (.number a) (.number b) = .number (a + b) := by
  rw [← exactSum_eq]
  rfl

/-- Settles O34: a quotient is rounded to a nearest natural, in binary32 that natural is the mantissa of a normal number,
and exact rationals are their own roundings. -/
theorem roundToNearestEven : Obligations.RoundToNearestEven := by
  refine ⟨fun negative m unit hu => ⟨fun h mode => roundQuotient_exact mode negative hu h,
    roundQuotient_nearest negative hu⟩, fun zeroNegative q hlo hhi => ?_,
    fun a b => ⟨sampleMul_exact a b, sampleAdd_exact a b⟩⟩
  obtain ⟨hq, hleast, hlimit⟩ := binary32_normal hlo hhi
  obtain ⟨m, hr, hmlo, hmhi, herror⟩ := roundBinary_normal (f := binary32) rfl hq rfl hleast hlimit zeroNegative
  obtain ⟨habs, hdist⟩ := dyadic_error q m (leadingExp q.num.natAbs q.den - 23)
  refine ⟨_, m, _, hr, hmlo, hmhi, habs, ?_⟩
  calc 2 * |dyadic (decide (q.num < 0)) m (leadingExp q.num.natAbs q.den - 23) - q|
      = 2 * |(m : Rat) - |q| / 2 ^ (leadingExp q.num.natAbs q.den - 23)| *
          2 ^ (leadingExp q.num.natAbs q.den - 23) := by rw [hdist, mul_assoc]
    _ ≤ 1 * 2 ^ (leadingExp q.num.natAbs q.den - 23) := by gcongr; exact herror
    _ = 2 ^ (leadingExp q.num.natAbs q.den - 23) := one_mul _

end Sys2Proof.Machine
end

section
/-! PROOFS. The host's commands and the ends of a frame: each command by its operation, `P_DONE`, and taking an
exception. -/

namespace Sys2Proof.Machine

open Sys2Proof

/-! ### The commands -/

/-- Settles O9: the step is the command (`step_hostAction`), and `resetBlock` restores the statement's registers. -/
theorem resetCommand : Obligations.ResetCommand := fun _ _ ht hh => step_hostAction ht hh

/-- `SET_CHANNELS` in `IDLE` (spec/46_frame_loop_host.md R342). -/
theorem setChannels_idle {s : State} (ht : s.top = .idle) (c : ChSel) :
    setChannels c s = { s with chsel := c, last := .ok } := if_pos ht

/-- `DECODE_FRAME` in `IDLE` (spec/46_frame_loop_host.md R343). -/
theorem decodeFrame_idle {s : State} (ht : s.top = .idle) : decodeFrame s = startFrame s := if_pos ht

/-- Settles O10: the command itself in `IDLE`, its refusal in `HALTED`. -/
theorem setChannelsResult : Obligations.SetChannelsResult := by
  refine fun s c rest hh => ⟨fun ht => ?_, fun ht => ?_⟩
  · have hbusy : s.top ≠ .busy := by simp [ht]
    rw [step_hostAction hbusy hh, hostAction, setChannels_idle (s := { s with host := rest }) ht]
  · have hbusy : s.top ≠ .busy := by simp [ht]
    rw [step_hostAction hbusy hh, hostAction_halted (s := { s with host := rest }) ht (.inr ⟨c, rfl⟩), refuseHalted]

/-- Settles O11: the command is `startFrame` of the state without the action. -/
theorem decodeFrameStarts : Obligations.DecodeFrameStarts := by
  intro s rest ht hh
  have hbusy : s.top ≠ .busy := by simp [ht]
  rw [step_hostAction hbusy hh, hostAction, decodeFrame_idle (s := { s with host := rest }) ht]
  rfl

/-! ### The ends of a frame -/

/-- A step at `P_DONE` is the end of the frame (spec/46_frame_loop_host.md R343). -/
theorem step_done {s : State} (ht : s.top = .busy) (hp : s.phase = .done) : step s = .next (finishFrame s) := by
  have hf : fetch s = .noElement := by simp [fetch, hp]
  rw [step_sequencer ht hf]
  simp only [sequencer, hp]

/-- Settles O52: at `P_DONE` the step is `finishFrame`, which closes the body and writes the outcome. -/
theorem frameDoneResult : Obligations.FrameDoneResult := fun _ => step_done

/-- An exception sets one bit of `FAULTS`, and `Refused(Halted)` none (spec/60_exceptions.md R371). -/
theorem addFault_eq_or (e : Exc) (f : BitVec 8) :
    addFault e f = f ||| if e = .refused .halted then 0#8 else 1#8 <<< excCode e := by
  unfold addFault
  split
  · exact BitVec.or_zero.symm
  · rfl

/-- Settles O53: the body by whether one was read, the bit of `FAULTS` and `TOP` exception by exception. -/
theorem raiseEffect : Obligations.RaiseEffect := by
  intro x s
  rw [raise_eq, addFault_eq_or]
  simp only [List.length_pos_iff, ne_eq, ite_not]
  cases x with
  | refused k => cases k <;> rfl
  | _ => rfl

end Sys2Proof.Machine
end
